-- ==== Sys2Proof/Word.lean ====
section
/-! DEFINITION. The word types of the block: a byte of FRAME or USERBUF and a 32-bit host register
(00_scope.md R6: `REG_BITS` = 32; R8). -/

namespace Sys2Proof

/-- One byte of FRAME or USERBUF (10_state.md R35, R36). -/
abbrev Byte := BitVec 8

/-- One host register, host word or command word (00_scope.md R6, 30_encoding.md R90). -/
abbrev Word := BitVec 32

end Sys2Proof
end

