-- ==== Sys2Proof/Config.lean ====
section
/-! DEFINITION. What one implementation fixes: the shape of the field-descriptor tables
(43_frame_assembler.md R190; the tables themselves are in Machine/Tables.lean), the buffer sizes,
and the two parameters the spec leaves open (00_scope.md R6), as constants with no body. -/

namespace Sys2Proof

/-- The frame variants (00_scope.md R3): P position, E extended-ID position, U user-data-only. -/
inductive Variant where
  | p
  | e
  | u
  deriving DecidableEq, Repr

/-- The semantic type of a field (43_frame_assembler.md R190, first column of the tables). -/
inductive FieldType where
  | extId
  | crc16
  | acqPeriod
  | day
  | hour
  | minute
  | longitude
  | latitude
  | altitude
  | userData
  | bch32
  deriving DecidableEq, Repr

/-- "(bit offset, bit width, semantic type)" (00_scope.md R13, 43_frame_assembler.md R190). -/
structure FieldDescriptor where
  type : FieldType
  offset : Nat
  width : Nat
  deriving DecidableEq, Repr

/-- One variant's field-descriptor table with its frame length (43_frame_assembler.md R190, R191).
CRC16 and UserData are in every table; the others may be absent (30_encoding.md R98). -/
structure Layout where
  extId : Option FieldDescriptor
  crc16 : FieldDescriptor
  acqPeriod : Option FieldDescriptor
  day : Option FieldDescriptor
  hour : Option FieldDescriptor
  minute : Option FieldDescriptor
  longitude : Option FieldDescriptor
  latitude : Option FieldDescriptor
  altitude : Option FieldDescriptor
  userData : FieldDescriptor
  bch32 : Option FieldDescriptor
  frameLength : Nat
  deriving DecidableEq, Repr

/-- `FRAME_BYTES` and `USERBUF_BYTES` (00_scope.md R6): both buffers hold 32 bytes. -/
abbrev Config.bufferBytes : Nat := 32

/-- `CMD_LATENCY` (00_scope.md R6, 70_reset_and_hazards.md R263): how many host accesses may pass between
the `n`-th CMD write and its command's completion. A FREE VALUE: any finite number, with no body, so no
proof can rest on it (log entry 2). -/
opaque Config.cmdLatency : Nat → Nat

/-- `SFC_BASE` (20_memory.md R60, R76): the platform's base address of the block, with no body (log entry 11).
No step reads it: host accesses carry offsets. -/
opaque Config.sfcBase : Nat

/-- The bus address of an offset of the block (20_memory.md R60). -/
def Config.busAddress (offset : BitVec 8) : Nat := Config.sfcBase + offset.toNat

end Sys2Proof
end

