-- ==== Sys2Proof/Syntax.lean ====
section
/-! DEFINITION. The commands of the block: one constructor per row of spec/opcode_table.json
(30_encoding.md R96). Operands are the numbers of the word's fields; their ranges are checked in
WellFormed.lean. -/

namespace Sys2Proof

/-- A command form (30_encoding.md R96). A constructor ending in `T` is the row with TBL = 1, which takes its
start position from the active field table (R92, R98). -/
inductive Instr where
  /-- CLEAN (43_frame_assembler.md R200). -/
  | clean
  /-- SETBIT p (40_bit_packer.md R122). -/
  | setBit (pos : Nat)
  /-- SETVALUE p, w with w = 0..31 (40_bit_packer.md R126). -/
  | setValue (pos width : Nat)
  /-- SETVALUE p, 32 (40_bit_packer.md R126). -/
  | setValue32 (pos : Nat)
  /-- SETACQ p (42_field_encoder.md R162). -/
  | setAcq (pos : Nat)
  /-- SETACQ @T (42_field_encoder.md R162). -/
  | setAcqT
  /-- SETDATE p (42_field_encoder.md R164). -/
  | setDate (pos : Nat)
  /-- SETDATE @T (42_field_encoder.md R164). -/
  | setDateT
  /-- SETLOC p (42_field_encoder.md R168). -/
  | setLoc (pos : Nat)
  /-- SETLOC @T (42_field_encoder.md R168). -/
  | setLocT
  /-- SETUSER p (42_field_encoder.md R176). -/
  | setUser (pos : Nat)
  /-- SETUSER @T (42_field_encoder.md R176). -/
  | setUserT
  /-- CALC ptr, 16 (41_checksum_engine.md R146). -/
  | calc16 (ptr : Nat)
  /-- CALC ptr, 32 (41_checksum_engine.md R146). -/
  | calc32 (ptr : Nat)
  /-- SETCRC16 p (43_frame_assembler.md R203). -/
  | setCrc16 (pos : Nat)
  /-- SETCRC16 @T (43_frame_assembler.md R203). -/
  | setCrc16T
  /-- SETCRC16BCH32 b (43_frame_assembler.md R206). -/
  | setCrc16Bch32 (pos : Nat)
  /-- SETCRC16BCH32 @T (43_frame_assembler.md R206). -/
  | setCrc16Bch32T
  deriving DecidableEq, Repr

end Sys2Proof
end

