-- ==== Sys2Proof/WellFormed.lean ====
section
/-! DEFINITION. Which commands a word can hold: every operand inside its field (30_encoding.md R93, R94, R100). -/

namespace Sys2Proof

/-- POS is an unsigned 8-bit value (30_encoding.md R93). -/
def posFits (pos : Nat) : Bool := decide (pos < 256)

/-- The first SETVALUE row holds w = 0..31 (30_encoding.md R96); w = 32 is the row `setValue32`. -/
def widthFits (width : Nat) : Bool := decide (width < 32)

/-- Every operand lies inside its field (30_encoding.md R100: a tool "must refuse any operand outside its
field"). -/
def Instr.wellFormed : Instr → Bool
  | .clean => true
  | .setBit pos => posFits pos
  | .setValue pos width => posFits pos && widthFits width
  | .setValue32 pos => posFits pos
  | .setAcq pos => posFits pos
  | .setAcqT => true
  | .setDate pos => posFits pos
  | .setDateT => true
  | .setLoc pos => posFits pos
  | .setLocT => true
  | .setUser pos => posFits pos
  | .setUserT => true
  | .calc16 ptr => posFits ptr
  | .calc32 ptr => posFits ptr
  | .setCrc16 pos => posFits pos
  | .setCrc16T => true
  | .setCrc16Bch32 pos => posFits pos
  | .setCrc16Bch32T => true

end Sys2Proof
end

