-- ==== Sys2Proof/Decode.lean ====
section
/-! DEFINITION. The opcode map of 30_encoding.md R96, the decoder of a command word (R97, its part that does
not depend on the active configuration: the `.T` forms whose field is absent are rejected by the meanings,
Machine/Ops.lean), and the encoder Enc of R100. The decoder is total on 32-bit words and names why it
rejects one (60_exceptions.md R223, causes 1 to 8). -/

namespace Sys2Proof

/-- `c[hi:lo]` (00_scope.md R8): the unsigned number in bits `hi` down to `lo`. -/
def slice (c : Word) (hi lo : Nat) : Nat := c.toNat / 2 ^ lo % 2 ^ (hi + 1 - lo)

/-- OP (30_encoding.md R91). -/
def opField (c : Word) : Nat := slice c 5 0

/-- TBL (30_encoding.md R92). -/
def tblField (c : Word) : Nat := slice c 6 6

/-- POS (30_encoding.md R93). -/
def posField (c : Word) : Nat := slice c 15 8

/-- WIDTH (30_encoding.md R94). -/
def widthField (c : Word) : Nat := slice c 21 16

/-- A reserved bit is set: bit 7 or one of bits 31:22 (30_encoding.md R95). -/
def reservedSet (c : Word) : Bool := slice c 7 7 != 0 || slice c 31 22 != 0

/-- The assigned operations (30_encoding.md R96, column OP). -/
inductive Op where
  | clean
  | setBit
  | setValue
  | setAcq
  | setDate
  | setLoc
  | setUser
  | calc
  | setCrc16
  | setCrc16Bch32
  deriving DecidableEq, Repr

/-- The opcode map (30_encoding.md R91, R96); `none` for an unassigned OP. -/
def opOf (op : Nat) : Option Op :=
  if op = 0x01 then some .clean
  else if op = 0x02 then some .setBit
  else if op = 0x03 then some .setValue
  else if op = 0x08 then some .setAcq
  else if op = 0x09 then some .setDate
  else if op = 0x0A then some .setLoc
  else if op = 0x0B then some .setUser
  else if op = 0x10 then some .calc
  else if op = 0x11 then some .setCrc16
  else if op = 0x12 then some .setCrc16Bch32
  else none

/-- Why a word is no command (60_exceptions.md R223, causes 1 to 8). The block does not report the reason: every
one of them is the command-error outcome (log entry 17). -/
inductive Reject where
  /-- Cause 1: OP is unassigned. -/
  | unassignedOp
  /-- Cause 2: bit 7 or any of bits 31:22 is set. -/
  | reservedBits
  /-- Cause 3: TBL = 1 on CLEAN, SETBIT, SETVALUE or CALC. -/
  | tblNotAllowed
  /-- Cause 4: TBL = 1 with POS not 0. -/
  | tblWithPos
  /-- Cause 5: WIDTH is not 0 on a command other than SETVALUE and CALC. -/
  | widthNotZero
  /-- Cause 6: WIDTH is 33..63 on SETVALUE. -/
  | setValueWidth
  /-- Cause 7: WIDTH is not 16 or 32 on CALC. -/
  | calcWidth
  /-- Cause 8: POS is not 0 on CLEAN. -/
  | cleanPos
  deriving DecidableEq, Repr

/-- What decoding a word yields (30_encoding.md R97). -/
inductive Decoded where
  | command (i : Instr)
  | rejected (why : Reject)
  deriving DecidableEq, Repr

/-- An operation with a positional form and a `.T` form (30_encoding.md R92): TBL selects, the `.T` form needs
POS = 0, and WIDTH must be 0. -/
def decodeDual (tbl pos width : Nat) (positional table : Instr) : Decoded :=
  if width ≠ 0 then .rejected .widthNotZero
  else if tbl = 0 then .command positional
  else if pos ≠ 0 then .rejected .tblWithPos
  else .command table

/-- CLEAN, SETBIT, SETVALUE and CALC (30_encoding.md R92: "TBL must be 0"). -/
def decodeSingle (tbl : Nat) (rest : Decoded) : Decoded :=
  if tbl ≠ 0 then .rejected .tblNotAllowed else rest

/-- The operation's own field rules (30_encoding.md R92 to R94, R96). -/
def decodeOp (op : Op) (tbl pos width : Nat) : Decoded :=
  match op with
  | .clean =>
    decodeSingle tbl <|
      if pos ≠ 0 then .rejected .cleanPos
      else if width ≠ 0 then .rejected .widthNotZero
      else .command .clean
  | .setBit =>
    decodeSingle tbl <| if width ≠ 0 then .rejected .widthNotZero else .command (.setBit pos)
  | .setValue =>
    decodeSingle tbl <|
      if width < 32 then .command (.setValue pos width)
      else if width = 32 then .command (.setValue32 pos)
      else .rejected .setValueWidth
  | .setAcq => decodeDual tbl pos width (.setAcq pos) .setAcqT
  | .setDate => decodeDual tbl pos width (.setDate pos) .setDateT
  | .setLoc => decodeDual tbl pos width (.setLoc pos) .setLocT
  | .setUser => decodeDual tbl pos width (.setUser pos) .setUserT
  | .calc =>
    decodeSingle tbl <|
      if width = 16 then .command (.calc16 pos)
      else if width = 32 then .command (.calc32 pos)
      else .rejected .calcWidth
  | .setCrc16 => decodeDual tbl pos width (.setCrc16 pos) .setCrc16T
  | .setCrc16Bch32 => decodeDual tbl pos width (.setCrc16Bch32 pos) .setCrc16Bch32T

/-- The command a 32-bit word holds, or why it holds none (30_encoding.md R97, R101). -/
def decode (c : Word) : Decoded :=
  if reservedSet c then .rejected .reservedBits
  else
    match opOf (opField c) with
    | none => .rejected .unassignedOp
    | some op => decodeOp op (tblField c) (posField c) (widthField c)

/-- `Enc(OP, TBL, POS, WIDTH)` (30_encoding.md R90, R100). The fields do not overlap, so the rule's OR of the shifted
fields is their sum. -/
def enc (op tbl pos width : Nat) : Word :=
  BitVec.ofNat 32 (width * 2 ^ 16 + pos * 2 ^ 8 + tbl * 2 ^ 6 + op)

/-- The word of a command (30_encoding.md R96, R103). -/
def encode : Instr → Word
  | .clean => enc 0x01 0 0 0
  | .setBit pos => enc 0x02 0 pos 0
  | .setValue pos width => enc 0x03 0 pos width
  | .setValue32 pos => enc 0x03 0 pos 32
  | .setAcq pos => enc 0x08 0 pos 0
  | .setAcqT => enc 0x08 1 0 0
  | .setDate pos => enc 0x09 0 pos 0
  | .setDateT => enc 0x09 1 0 0
  | .setLoc pos => enc 0x0A 0 pos 0
  | .setLocT => enc 0x0A 1 0 0
  | .setUser pos => enc 0x0B 0 pos 0
  | .setUserT => enc 0x0B 1 0 0
  | .calc16 ptr => enc 0x10 0 ptr 16
  | .calc32 ptr => enc 0x10 0 ptr 32
  | .setCrc16 pos => enc 0x11 0 pos 0
  | .setCrc16T => enc 0x11 1 0 0
  | .setCrc16Bch32 pos => enc 0x12 0 pos 0
  | .setCrc16Bch32T => enc 0x12 1 0 0

/-- The tool's encoder, which "must refuse any operand outside its field" (30_encoding.md R100). -/
def encodeChecked (i : Instr) : Option Word := if i.wellFormed then some (encode i) else none

/-- One row of the opcode map: a word `c` matches when `(c AND mask) = match` (30_encoding.md R96). -/
structure OpcodeRow where
  pattern : Word
  mask : Word
  deriving DecidableEq, Repr

/-- The row of a command form, with its match and mask columns as 30_encoding.md R96 prints them. -/
def opcodeRow : Instr → OpcodeRow
  | .clean => ⟨0x00000001, 0xFFFFFFFF⟩
  | .setBit _ => ⟨0x00000002, 0xFFFF00FF⟩
  | .setValue _ _ => ⟨0x00000003, 0xFFE000FF⟩
  | .setValue32 _ => ⟨0x00200003, 0xFFFF00FF⟩
  | .setAcq _ => ⟨0x00000008, 0xFFFF00FF⟩
  | .setAcqT => ⟨0x00000048, 0xFFFFFFFF⟩
  | .setDate _ => ⟨0x00000009, 0xFFFF00FF⟩
  | .setDateT => ⟨0x00000049, 0xFFFFFFFF⟩
  | .setLoc _ => ⟨0x0000000A, 0xFFFF00FF⟩
  | .setLocT => ⟨0x0000004A, 0xFFFFFFFF⟩
  | .setUser _ => ⟨0x0000000B, 0xFFFF00FF⟩
  | .setUserT => ⟨0x0000004B, 0xFFFFFFFF⟩
  | .calc16 _ => ⟨0x00100010, 0xFFFF00FF⟩
  | .calc32 _ => ⟨0x00200010, 0xFFFF00FF⟩
  | .setCrc16 _ => ⟨0x00000011, 0xFFFF00FF⟩
  | .setCrc16T => ⟨0x00000051, 0xFFFFFFFF⟩
  | .setCrc16Bch32 _ => ⟨0x00000012, 0xFFFF00FF⟩
  | .setCrc16Bch32T => ⟨0x00000052, 0xFFFFFFFF⟩

/-- The eighteen rows of 30_encoding.md R96 in the rule's order (each row once; operands do not matter). -/
def opcodeRows : List OpcodeRow :=
  [.clean, .setBit 0, .setValue 0 0, .setValue32 0, .setAcq 0, .setAcqT, .setDate 0, .setDateT, .setLoc 0,
    .setLocT, .setUser 0, .setUserT, .calc16 0, .calc32 0, .setCrc16 0, .setCrc16T, .setCrc16Bch32 0,
    .setCrc16Bch32T].map opcodeRow

/-- `(c AND mask) = match` (30_encoding.md R96). -/
def OpcodeRow.matchesWord (r : OpcodeRow) (c : Word) : Bool := c &&& r.mask == r.pattern

/-- The host's reading of a table word: the instruction the decoder reads from a command word whose low `nbits`
bits are `w` and whose other bits are 0. -/
def decodeTableWord (nbits w : Nat) : Option Instr :=
  match decode (BitVec.ofNat 32 (w % 2 ^ nbits)) with
  | .command i => some i
  | .rejected _ => none

end Sys2Proof
end

