-- ==== Sys2Proof/Machine/State.lean ====
section
/-! DEFINITION. The state of the block (10_state.md R20 to R39) as plain data, with the host's and the platform's
events still to come, the reasons a step can stop, and the state after reset (70_reset_and_hazards.md R250). -/

namespace Sys2Proof.Machine

/-- The assembler states (10_state.md R32, 43_frame_assembler.md R197). -/
inductive AsmState where
  | empty
  | populated
  | sealed
  deriving DecidableEq, Repr

/-- A byte array of the block as its listed bytes: (index, byte) pairs, indices strictly rising, no byte listed that
equals what an unlisted index reads as (Machine/Memory.lean; log entry 12). -/
abbrev Memory := List Host.Cell

/-- What the outside world does to the block, one event each (00_scope.md R14; log entry 1). Offsets are relative to
`SFC_BASE` (20_memory.md R60). -/
inductive HostEvent where
  /-- A host read of `bits` bits at an offset (20_memory.md R65 defines 32-bit aligned ones only). -/
  | read (offset : BitVec 8) (bits : Nat)
  /-- A host write of `bits` bits at an offset. -/
  | write (offset : BitVec 8) (bits : Nat) (value : Word)
  /-- The WAIT loop: read STATUS until BUSY is 0 (30_encoding.md R104, 70_reset_and_hazards.md R257). -/
  | waitReady
  /-- The platform asserts reset (70_reset_and_hazards.md R250). -/
  | reset
  /-- An access by a second bus agent (20_memory.md R75, 60_exceptions.md R227 U6). -/
  | otherAgent
  deriving DecidableEq, Repr

/-- The state of the block. STATUS.BUSY is "`pend` is not none" (10_state.md R38) and FLEN is a function of the active
configuration (R33); both are computed (Machine/Flags.lean, Machine/Operands.lean). The last four fields are the model's
own (log entries 1, 2 and 6). -/
structure State where
  /-- OPA (10_state.md R22). -/
  opa : Word
  /-- OPB (10_state.md R23). -/
  opb : Word
  /-- OPC (10_state.md R24). -/
  opc : Word
  /-- POLY (10_state.md R25). -/
  poly : Word
  /-- CFG.ATTACH (10_state.md R29). -/
  attach : Bool
  /-- CFG.VARIANT (10_state.md R27); 3 is never stored. -/
  cfgVariant : Variant
  /-- CFG.BCH_EN (10_state.md R28). -/
  cfgBchEn : Bool
  /-- STATUS.INVALID (10_state.md R31). -/
  invalid : Bool
  /-- STATUS.CMDERR (10_state.md R31). -/
  cmdErr : Bool
  /-- STATUS.STATE (10_state.md R32). -/
  asmState : AsmState
  /-- RESULT (10_state.md R34). -/
  result : Word
  /-- FRAME (10_state.md R35). -/
  frame : Memory
  /-- USERBUF (10_state.md R36). -/
  userBuf : Memory
  /-- ACT_VARIANT (10_state.md R37). -/
  actVariant : Variant
  /-- ACT_BCH (10_state.md R37). -/
  actBch : Bool
  /-- PEND (10_state.md R38). -/
  pend : Option Word
  /-- The host accesses that may still pass before the pending command completes (70_reset_and_hazards.md R263). -/
  latencyLeft : Nat
  /-- How many commands have been issued: what the free value `Config.cmdLatency` is applied to. -/
  issued : Nat
  /-- What the host and the platform will do, first event first. -/
  input : List HostEvent
  /-- The values host reads have returned, newest first. -/
  reads : List Word
  deriving DecidableEq, Repr

/-- Why a step stops: the UNDEFINED cases of 60_exceptions.md R227. Each is safe: the model stops where hardware may do
anything, and the checks come before any write. -/
inductive Fault where
  /-- U1: a command would write a frame bit at a position `>= 8*FLEN`. Raised by SETBIT, SETVALUE, the encoders and the
  checksum setters (60_exceptions.md R228). Safe. -/
  | layoutWrite
  /-- U2: CALC with `sint_32(OPA) < 0`. Raised by CALC. Safe. -/
  | negativeLength
  /-- U3: CALC with `POS + ceil8(L) > FLEN`. Raised by CALC. Safe. -/
  | layoutRead
  /-- U4: a host access other than a STATUS read while a command is pending (70_reset_and_hazards.md R256). Raised by
  host reads and writes. Safe. -/
  | accessWhileBusy
  /-- U5: a host access that is not 32 bits wide or not 4-byte aligned (20_memory.md R65). Raised by host reads and
  writes. Safe. -/
  | badHostAccess
  deriving DecidableEq, Repr

/-- Where the model has no move. -/
inductive Refusal where
  /-- An instruction without a meaning; raised by the dispatch only, and by no arm of this model. Safe. -/
  | notModelled (mnemonic : String)
  /-- U6: a second bus agent accesses the block. Raised by the event `otherAgent`: the spec's treatment is
  "refuse" (93_implementation_defined.md I4). Safe. -/
  | secondBusAgent
  deriving DecidableEq, Repr

/-- What a step or a command answers. -/
abbrev Answer := Host.Outcome State Fault Refusal

/-- The state after reset (70_reset_and_hazards.md R250, 10_state.md R39). The model's own fields (the last four) have
the values of log entries 1, 2 and 6. -/
def State.reset : State where
  opa := 0x00000000
  opb := 0x00000000
  opc := 0x00000000
  poly := 0x00000000
  attach := false
  cfgVariant := .p
  cfgBchEn := false
  invalid := false
  cmdErr := false
  asmState := .empty
  result := 0x00000000
  frame := []
  userBuf := []
  actVariant := .p
  actBch := false
  pend := none
  latencyLeft := 0
  issued := 0
  input := []
  reads := []

end Sys2Proof.Machine
end

