-- ==== Sys2Proof/Machine/Memory.lean ====
section
/-! DEFINITION. Reading and writing FRAME and USERBUF: one byte, big-endian words (20_memory.md R63), one frame bit
(00_scope.md R7, 40_bit_packer.md R121) and fields (R124). Every write keeps the canonical form `Memory.wf`. -/

namespace Sys2Proof.Machine

/-- What an unlisted byte reads as: the reset contents of both buffers, 0x00 (10_state.md R35, R36; log entry 12). -/
def unlistedByte : Byte := 0x00

/-- Byte `a` of a buffer. -/
def readByte : Memory → Nat → Byte
  | [], _ => unlistedByte
  | (b, v) :: rest, a => if a = b then v else readByte rest a

/-- The buffer with byte `a` unlisted. -/
def eraseByte : Memory → Nat → Memory
  | [], _ => []
  | (b, u) :: rest, a => if b = a then eraseByte rest a else (b, u) :: eraseByte rest a

/-- The buffer with byte `a` listed as `v`, at its place in the rising order. -/
def insertByte : Memory → Nat → Byte → Memory
  | [], a, v => [(a, v)]
  | (b, u) :: rest, a, v => if a < b then (a, v) :: (b, u) :: rest else (b, u) :: insertByte rest a v

/-- The buffer with byte `a` set to `v` and every other byte as it was; a byte that equals what an unlisted one reads as
is not listed. -/
def writeByte (m : Memory) (a : Nat) (v : Byte) : Memory :=
  if v = unlistedByte then eraseByte m a else insertByte (eraseByte m a) a v

/-- Indices strictly rising from `low`, all below `Config.bufferBytes`, and no byte listed that an unlisted one reads as. -/
def wfFrom : Nat → Memory → Bool
  | _, [] => true
  | low, (a, v) :: rest =>
    decide (low ≤ a) && decide (a < Config.bufferBytes) && decide (v ≠ unlistedByte) && wfFrom (a + 1) rest

/-- The canonical form of a buffer (log entry 12). -/
def Memory.wf (m : Memory) : Bool := wfFrom 0 m

/-- `MemRead(a, n)`, big-endian (20_memory.md R63). -/
def memRead (m : Memory) (a : Nat) : Nat → Nat
  | 0 => 0
  | n + 1 => (readByte m a).toNat * 2 ^ (8 * n) + memRead m (a + 1) n

/-- `MemWrite(a, n, v)`, big-endian (20_memory.md R63). -/
def memWrite (m : Memory) (a : Nat) : Nat → Nat → Memory
  | 0, _ => m
  | n + 1, v => memWrite (writeByte m a (BitVec.ofNat 8 (v / 2 ^ (8 * n)))) (a + 1) n v

/-- A byte with bit `k` set to `b`. -/
def setByteBit (x : Byte) (k : Nat) (b : Bool) : Byte :=
  if b then x ||| BitVec.twoPow 8 k else x &&& ~~~BitVec.twoPow 8 k

/-- `GetBit(p)`: bit `7 - (p mod 8)` of byte `p div 8` (00_scope.md R7). -/
def getBit (m : Memory) (p : Nat) : Bool := (readByte m (p / 8)).getLsbD (7 - p % 8)

/-- `PutBit(p, b)`: an assignment of one frame bit (40_bit_packer.md R121). -/
def putBit (m : Memory) (p : Nat) (b : Bool) : Memory :=
  writeByte m (p / 8) (setByteBit (readByte m (p / 8)) (7 - p % 8) b)

/-- `PutField(p, w, v)`: the `w` low-order bits of `v`, most significant first, bit by bit (40_bit_packer.md R124,
93_implementation_defined.md I20). -/
def putField (m : Memory) (p : Nat) : Nat → Nat → Memory
  | 0, _ => m
  | w + 1, v => putField (putBit m p (v.testBit w)) (p + 1) w v

/-- Consecutive fields of (width, value), "each starting one bit after the previous field's last bit"
(42_field_encoder.md R160). -/
def putFields (m : Memory) (p : Nat) : List (Nat × Nat) → Memory
  | [] => m
  | (w, v) :: rest => putFields (putField m p w v) (p + w) rest

/-- The width in bits of consecutive fields. -/
def totalWidth : List (Nat × Nat) → Nat
  | [] => 0
  | (w, _) :: rest => w + totalWidth rest

end Sys2Proof.Machine
end

