-- ==== Sys2Proof/Machine/Tables.lean ====
section
/-! DEFINITION. The fixed field-descriptor tables of the three variants with their frame lengths and capacities
(43_frame_assembler.md R190 to R194), and the fixed constants of 00_scope.md R6. A corrected table replaces an entry here
and touches no rule. -/

namespace Sys2Proof.Machine

/-- Variant P (43_frame_assembler.md R190, first table; R191: 27 bytes, 31 with BCH). -/
def layoutP (bch : Bool) : Layout where
  extId := none
  crc16 := ⟨.crc16, 0, 16⟩
  acqPeriod := some ⟨.acqPeriod, 16, 3⟩
  day := some ⟨.day, 19, 5⟩
  hour := some ⟨.hour, 24, 5⟩
  minute := some ⟨.minute, 29, 6⟩
  longitude := some ⟨.longitude, 35, 22⟩
  latitude := some ⟨.latitude, 57, 21⟩
  altitude := some ⟨.altitude, 78, 10⟩
  userData := ⟨.userData, 88, 128⟩
  bch32 := if bch then some ⟨.bch32, 216, 32⟩ else none
  frameLength := if bch then 31 else 27

/-- Variant E (43_frame_assembler.md R190, second table; R191: 27 bytes, 31 with BCH). -/
def layoutE (bch : Bool) : Layout where
  extId := some ⟨.extId, 0, 4⟩
  crc16 := ⟨.crc16, 4, 16⟩
  acqPeriod := some ⟨.acqPeriod, 20, 3⟩
  day := some ⟨.day, 23, 5⟩
  hour := some ⟨.hour, 28, 5⟩
  minute := some ⟨.minute, 33, 6⟩
  longitude := some ⟨.longitude, 39, 22⟩
  latitude := some ⟨.latitude, 61, 21⟩
  altitude := some ⟨.altitude, 82, 10⟩
  userData := ⟨.userData, 92, 124⟩
  bch32 := if bch then some ⟨.bch32, 216, 32⟩ else none
  frameLength := if bch then 31 else 27

/-- Variant U (43_frame_assembler.md R190, third table; R191: 31 bytes in both forms). -/
def layoutU (bch : Bool) : Layout where
  extId := none
  crc16 := ⟨.crc16, 0, 16⟩
  acqPeriod := none
  day := none
  hour := none
  minute := none
  longitude := none
  latitude := none
  altitude := none
  userData := ⟨.userData, 16, if bch then 200 else 232⟩
  bch32 := if bch then some ⟨.bch32, 216, 32⟩ else none
  frameLength := 31

/-- The table of a configuration: "The active table is the one of ACT_VARIANT, with the BCH32 entry present only when
ACT_BCH = 1" (43_frame_assembler.md R190). -/
def layout (variant : Variant) (bch : Bool) : Layout :=
  match variant with
  | .p => layoutP bch
  | .e => layoutE bch
  | .u => layoutU bch

/-- A table's entry for a field, `none` where the table lacks it. -/
def descriptor (l : Layout) (field : FieldType) : Option FieldDescriptor :=
  match field with
  | .extId => l.extId
  | .crc16 => some l.crc16
  | .acqPeriod => l.acqPeriod
  | .day => l.day
  | .hour => l.hour
  | .minute => l.minute
  | .longitude => l.longitude
  | .latitude => l.latitude
  | .altitude => l.altitude
  | .userData => some l.userData
  | .bch32 => l.bch32

/-- A table's entries in the order the rule lists them, which is by offset (43_frame_assembler.md R190). -/
def entries (l : Layout) : List FieldDescriptor :=
  l.extId.toList ++ [l.crc16] ++ l.acqPeriod.toList ++ l.day.toList ++ l.hour.toList ++ l.minute.toList ++
    l.longitude.toList ++ l.latitude.toList ++ l.altitude.toList ++ [l.userData] ++ l.bch32.toList

/-- `FrameLength(variant, bch)` in bytes (43_frame_assembler.md R191). -/
def frameLength (variant : Variant) (bch : Bool) : Nat := (layout variant bch).frameLength

/-- `cap` of `Capacity(variant, bch)` (43_frame_assembler.md R193): the full payload bytes of the UserData field. -/
def capBytes (l : Layout) : Nat := l.userData.width / 8

/-- `nib` of `Capacity(variant, bch)` (43_frame_assembler.md R193): a 4-bit tail follows the full bytes. -/
def hasNibble (l : Layout) : Bool := l.userData.width % 8 == 4

/-- `CrcOff(variant)` (43_frame_assembler.md R194). -/
def crcOff (l : Layout) : Nat := l.crc16.offset

/-- The low 16 bits of the CRC16 generator 0x11021 (41_checksum_engine.md R141). -/
def polyCrc16 : BitVec 16 := 0x1021

/-- The low 32 bits of the BCH32 generator 0x1EE5B42FD (41_checksum_engine.md R141). -/
def polyBch32 : BitVec 32 := 0xEE5B42FD

/-- The low 32 bits of the FCS32 generator 0x104C11DB7 (41_checksum_engine.md R141). -/
def polyFcs32 : BitVec 32 := 0x04C11DB7

/-- `SENTINEL` (00_scope.md R6), as RESULT holds it (60_exceptions.md R224). -/
def sentinel : Word := 0x0000FFFF

end Sys2Proof.Machine
end

