-- ==== Sys2Proof/Machine/Operands.lean ====
section
/-! DEFINITION. The operands of commands: the active table, start positions (30_encoding.md R98), register operands
(R99) and payload bytes (42_field_encoder.md R176). -/

namespace Sys2Proof.Machine

/-- The active field-descriptor table: the one of (ACT_VARIANT, ACT_BCH), never of CFG (10_state.md R37). -/
def activeLayout (s : State) : Layout := layout s.actVariant s.actBch

/-- FLEN, the active frame length in bytes (10_state.md R33). -/
def flen (s : State) : Nat := (activeLayout s).frameLength

/-- `8*FLEN`: the frame bit positions a command may touch lie below it (20_memory.md R67). -/
def frameBits (s : State) : Nat := 8 * flen s

/-- The start position of a positional form: POS (30_encoding.md R98). -/
def posStart (pos : Nat) : Option Nat := some pos

/-- `TableStart`: the offset of a field in the active table, `none` where it is absent (30_encoding.md R98). -/
def tableStart (field : FieldType) (s : State) : Option Nat := (descriptor (activeLayout s) field).map (·.offset)

/-- The value of SETBIT: `OPA[0]` (30_encoding.md R99). -/
def opaBit (s : State) : Bool := s.opa.getLsbD 0

/-- `sint_32(v)` (00_scope.md R8). -/
def sint32 (v : Word) : Int := v.toInt

/-- `ceil8(L)` (00_scope.md R9). -/
def ceil8 (l : Nat) : Nat := (l + 7) / 8

/-- A bit position as RESULT returns it: `zext_32(trunc_16(last))` (10_state.md R34, 40_bit_packer.md R126). -/
def positionWord (last : Int) : Word := (BitVec.ofInt 16 last).setWidth 32

/-- `data[i]`: payload byte `i` (42_field_encoder.md R176, 10_state.md R36). -/
def payloadByte (s : State) (i : Nat) : Nat := (readByte s.userBuf i).toNat

end Sys2Proof.Machine
end

