-- ==== Sys2Proof/Machine/Flags.lean ====
section
/-! DEFINITION. The STATUS and CFG words and what commands do to STATUS: the outcome bits (60_exceptions.md R221, R222,
R224) and the assembler state (43_frame_assembler.md R197 to R199). -/

namespace Sys2Proof.Machine

/-- STATUS.BUSY: 1 exactly while a command is pending (10_state.md R30, R38). -/
def busy (s : State) : Bool := s.pend.isSome

/-- The 2-bit code of a variant (10_state.md R27). -/
def variantCode : Variant → Nat
  | .p => 0
  | .e => 1
  | .u => 2

/-- The 2-bit code of an assembler state (10_state.md R32). -/
def asmStateCode : AsmState → Nat
  | .empty => 0
  | .populated => 1
  | .sealed => 2

/-- The STATUS word (10_state.md R30): BUSY 0, INVALID 1, CMDERR 2, STATE 4:3, ACT_VARIANT 6:5, ACT_BCH 7, 31:8 zero. -/
def statusWord (s : State) : Word :=
  BitVec.ofNat 32 ((busy s).toNat + 2 * s.invalid.toNat + 4 * s.cmdErr.toNat + 8 * asmStateCode s.asmState +
    32 * variantCode s.actVariant + 128 * s.actBch.toNat)

/-- The CFG word (10_state.md R26): ATTACH 0, VARIANT 2:1, BCH_EN 3, 31:4 zero. -/
def cfgWord (s : State) : Word :=
  BitVec.ofNat 32 (s.attach.toNat + 2 * variantCode s.cfgVariant + 8 * s.cfgBchEn.toNat)

/-- What a write of a 2-bit value to CFG.VARIANT stores: 3 leaves the field unchanged (10_state.md R27). -/
def variantWrite (old : Variant) (v : Nat) : Variant :=
  if v = 0 then .p else if v = 1 then .e else if v = 2 then .u else old

/-- A host write of CFG (10_state.md R26 to R29): 31:4 are ignored. -/
def writeCfg (v : Word) (s : State) : State :=
  { s with
    attach := v.getLsbD 0
    cfgVariant := variantWrite s.cfgVariant (v.toNat / 2 % 4)
    cfgBchEn := v.getLsbD 3 }

/-- Normal completion: `STATUS.CMDERR <- 0 ; STATUS.INVALID <- 0` (60_exceptions.md R221). -/
def flagsOk (s : State) : State := { s with cmdErr := false, invalid := false }

/-- Command error: `STATUS.CMDERR <- 1 ; STATUS.INVALID <- 0` (60_exceptions.md R222). -/
def flagsCmdErr (s : State) : State := { s with cmdErr := true, invalid := false }

/-- Invalid handle: `STATUS.INVALID <- 1 ; STATUS.CMDERR <- 0` (60_exceptions.md R224). -/
def flagsInvalid (s : State) : State := { s with cmdErr := false, invalid := true }

/-- The assembler state after a frame write: Empty becomes Populated, nothing else changes (43_frame_assembler.md R198). -/
def populate : AsmState → AsmState
  | .empty => .populated
  | .populated => .populated
  | .sealed => .sealed

/-- `FrameWritten()` (43_frame_assembler.md R198). -/
def frameWritten (s : State) : State := { s with asmState := populate s.asmState }

/-- `STATE <- Sealed` (43_frame_assembler.md R199). -/
def sealFrame (s : State) : State := { s with asmState := .sealed }

end Sys2Proof.Machine
end

