-- ==== Sys2Proof/Machine/Ops.lean ====
section
/-! DEFINITION. The operations every command shares: the common prologue with the two outcomes that take the place of
exceptions on this block (60_exceptions.md R220, R222, R224; there is no trap, R232), writing consecutive fields
(42_field_encoder.md R160), and the clearing of PEND at completion (70_reset_and_hazards.md R255). -/

namespace Sys2Proof.Machine

/-- The state with the FRAME given. -/
def setFrame (m : Memory) (s : State) : State := { s with frame := m }

/-- `RESULT <- v`. -/
def setResult (v : Word) (s : State) : State := { s with result := v }

/-- The command-error outcome (60_exceptions.md R222): the two bits, nothing else. -/
def outcomeCmdErr (s : State) : State := flagsCmdErr s

/-- The invalid-handle outcome (60_exceptions.md R224): the two bits, and the sentinel in RESULT where the command returns
a position. -/
def outcomeInvalid (returnsPosition : Bool) (s : State) : State :=
  setResult (if returnsPosition then sentinel else s.result) (flagsInvalid s)

/-- Normal completion of a body (60_exceptions.md R221); a body that raised UNDEFINED stays so. -/
def finish (a : Answer) : Answer :=
  match a with
  | .next t => .next (flagsOk t)
  | .fault f => .fault f
  | .refused r => .refused r

/-- `Complete(c)` for a word that matches a row (60_exceptions.md R220): a `.T` form whose field is absent is a command
error, then the ATTACH check, then the body from its start position. -/
def runCommand (returnsPosition : Bool) (start : Option Nat) (body : Nat → State → Answer) (s : State) : Answer :=
  match start with
  | none => .next (outcomeCmdErr s)
  | some p => if s.attach then finish (body p s) else .next (outcomeInvalid returnsPosition s)

/-- The body of the field encoders (42_field_encoder.md R160): the layout check over the whole extent, consecutive fields
from `p`, `FrameWritten()` once, and the last position written in RESULT. -/
def encodeFields (fields : List (Nat × Nat)) (p : Nat) (s : State) : Answer :=
  if p + totalWidth fields > frameBits s then .fault .layoutWrite
  else
    .next <| setResult (positionWord (p + totalWidth fields - 1)) <| frameWritten <|
      setFrame (putFields s.frame p fields) s

/-- `PEND <- none ; STATUS.BUSY <- 0` (70_reset_and_hazards.md R255). -/
def retire (s : State) : State := { s with pend := none, latencyLeft := 0 }

end Sys2Proof.Machine
end

