-- ==== Sys2Proof/Machine/BitPacker.lean ====
section
/-! DEFINITION. The Bit Packer commands SETBIT and SETVALUE (40_bit_packer.md). -/

namespace Sys2Proof.Machine

/-- The body of SETBIT (40_bit_packer.md R122). -/
def bodySetBit (p : Nat) (s : State) : Answer :=
  if p ≥ frameBits s then .fault .layoutWrite
  else .next (frameWritten (setFrame (putBit s.frame p (opaBit s)) s))

/-- The body of SETVALUE with width `w` (40_bit_packer.md R126, R127). -/
def bodySetValue (w p : Nat) (s : State) : Answer :=
  if w > 0 ∧ p + w > frameBits s then .fault .layoutWrite
  else
    let written := setFrame (putField s.frame p w s.opa.toNat) s
    .next <| setResult (positionWord ((p : Int) + w - 1)) <| if w > 0 then frameWritten written else written

/-- SETBIT p. -/
def execSetBit (pos : Nat) (s : State) : Answer := runCommand false (posStart pos) bodySetBit s

/-- SETVALUE p, w with w = 0..31. -/
def execSetValue (pos width : Nat) (s : State) : Answer := runCommand true (posStart pos) (bodySetValue width) s

/-- SETVALUE p, 32. -/
def execSetValue32 (pos : Nat) (s : State) : Answer := runCommand true (posStart pos) (bodySetValue 32) s

end Sys2Proof.Machine
end

