-- ==== Sys2Proof/Machine/FieldEncoder.lean ====
section
/-! DEFINITION. The Field Encoder commands SETACQ, SETDATE, SETLOC and SETUSER (42_field_encoder.md). Each is a list of
consecutive (width, value) fields given to `encodeFields`. -/

namespace Sys2Proof.Machine

/-- `LonCode(lon)` (42_field_encoder.md R165). -/
def lonCode (lon : Int) : Nat := (lon.natAbs ||| if lon < 0 then 2 ^ 21 else 0) % 2 ^ 22

/-- `LatCode(lat)` (42_field_encoder.md R165). -/
def latCode (lat : Int) : Nat := (lat.natAbs ||| if lat < 0 then 2 ^ 20 else 0) % 2 ^ 21

/-- `AltCode(alt)`, with truncating division (42_field_encoder.md R166, 90_conflicts.md C1). -/
def altCode (alt : Int) : Nat := (alt + 500).natAbs / 10 % 2 ^ 10

/-- SETACQ's field (42_field_encoder.md R162). -/
def acqFields (s : State) : List (Nat × Nat) := [(3, s.opa.toNat)]

/-- SETDATE's Day, Hour and Minute (42_field_encoder.md R164). -/
def dateFields (s : State) : List (Nat × Nat) := [(5, s.opa.toNat), (5, s.opb.toNat), (6, s.opc.toNat)]

/-- SETLOC's longitude, latitude and altitude (42_field_encoder.md R168). -/
def locFields (s : State) : List (Nat × Nat) :=
  [(22, lonCode (sint32 s.opa)), (21, latCode (sint32 s.opb)), (10, altCode (sint32 s.opc))]

/-- The payload byte written at index `i`: `USERBUF[i]` below `min(len, cap)`, else the zero padding
(42_field_encoder.md R176, R177). -/
def paddedByte (s : State) (i : Nat) : Nat :=
  if i < min s.opa.toNat (capBytes (activeLayout s)) then payloadByte s i else 0

/-- The half-byte tail: the top nibble of `USERBUF[cap]` when `len = cap + 1`, else 0 (42_field_encoder.md R176, R180). -/
def tailNibble (s : State) : Nat :=
  let cap := capBytes (activeLayout s)
  if s.opa.toNat = cap + 1 then payloadByte s cap / 2 ^ 4 else 0

/-- SETUSER's `cap` bytes and, where the variant has one, the half-byte tail (42_field_encoder.md R176). -/
def userFields (s : State) : List (Nat × Nat) :=
  (List.range (capBytes (activeLayout s))).map (fun i => (8, paddedByte s i)) ++
    if hasNibble (activeLayout s) then [(4, tailNibble s)] else []

/-- The body of SETACQ (42_field_encoder.md R162). -/
def bodySetAcq (p : Nat) (s : State) : Answer := encodeFields (acqFields s) p s

/-- The body of SETDATE (42_field_encoder.md R164). -/
def bodySetDate (p : Nat) (s : State) : Answer := encodeFields (dateFields s) p s

/-- The body of SETLOC (42_field_encoder.md R168). -/
def bodySetLoc (p : Nat) (s : State) : Answer := encodeFields (locFields s) p s

/-- The body of SETUSER (42_field_encoder.md R176). -/
def bodySetUser (p : Nat) (s : State) : Answer := encodeFields (userFields s) p s

/-- SETACQ p. -/
def execSetAcq (pos : Nat) (s : State) : Answer := runCommand true (posStart pos) bodySetAcq s

/-- SETACQ @T, from the AcqPeriod offset. -/
def execSetAcqT (s : State) : Answer := runCommand true (tableStart .acqPeriod s) bodySetAcq s

/-- SETDATE p. -/
def execSetDate (pos : Nat) (s : State) : Answer := runCommand true (posStart pos) bodySetDate s

/-- SETDATE @T, from the Day offset. -/
def execSetDateT (s : State) : Answer := runCommand true (tableStart .day s) bodySetDate s

/-- SETLOC p. -/
def execSetLoc (pos : Nat) (s : State) : Answer := runCommand true (posStart pos) bodySetLoc s

/-- SETLOC @T, from the Longitude offset. -/
def execSetLocT (s : State) : Answer := runCommand true (tableStart .longitude s) bodySetLoc s

/-- SETUSER p. -/
def execSetUser (pos : Nat) (s : State) : Answer := runCommand true (posStart pos) bodySetUser s

/-- SETUSER @T, from the UserData offset. -/
def execSetUserT (s : State) : Answer := runCommand true (tableStart .userData s) bodySetUser s

end Sys2Proof.Machine
end

