-- ==== Sys2Proof/Machine/ChecksumEngine.lean ====
section
/-! DEFINITION. The Checksum Engine: the function CHK, bit-serial and byte-serial, and the command CALC
(41_checksum_engine.md). -/

namespace Sys2Proof.Machine

/-- One shift step of the division: message bit `b` into the remainder `r` (41_checksum_engine.md R143). -/
def chkStep {W : Nat} (P r : BitVec W) (b : Bool) : BitVec W :=
  if r.getLsbD (W - 1) ^^ b then (r <<< 1) ^^^ P else r <<< 1

/-- The remainder after a sequence of message bits, first bit first, from remainder 0 (41_checksum_engine.md R143). -/
def chkBits {W : Nat} (P : BitVec W) (bits : List Bool) : BitVec W := bits.foldl (chkStep P) 0

/-- `lead = 8*nbytes - L`: the bits of the first domain byte before the domain (41_checksum_engine.md R142). -/
def leadBits (L : Nat) : Nat := 8 * ceil8 L - L

/-- The domain: `b_k = GetBit(8*ptr + lead + k)` for `k` in 0..L-1 (41_checksum_engine.md R142). -/
def domainBits (m : Memory) (ptr L : Nat) : List Bool :=
  (List.range L).map fun k => getBit m (8 * ptr + leadBits L + k)

/-- `CHK(ptr, L, P, W)` for a span inside the frame (41_checksum_engine.md R140, R143). The two UNDEFINED checks of R143
stand in `bodyCalc`; the setters' domains always pass them (60_exceptions.md R228). -/
def chk {W : Nat} (m : Memory) (ptr L : Nat) (P : BitVec W) : BitVec W := chkBits P (domainBits m ptr L)

/-- `CRC16(ptr, L)` (41_checksum_engine.md R149). -/
def crc16 (m : Memory) (ptr L : Nat) : BitVec 16 := chk m ptr L polyCrc16

/-- `BCH32(ptr, L)` (41_checksum_engine.md R149). -/
def bch32 (m : Memory) (ptr L : Nat) : BitVec 32 := chk m ptr L polyBch32

/-- `FCS32(ptr, L)` (41_checksum_engine.md R149); no command but CALC reaches it. -/
def fcs32 (m : Memory) (ptr L : Nat) : BitVec 32 := chk m ptr L polyFcs32

/-- One step of the byte-serial form: `if r[W-1] = 1 then r <- trunc_W(r << 1) XOR P else r <- trunc_W(r << 1)`
(41_checksum_engine.md R145). -/
def shiftStep {W : Nat} (P r : BitVec W) : BitVec W := if r.getLsbD (W - 1) then (r <<< 1) ^^^ P else r <<< 1

/-- `n` steps of the byte-serial form. -/
def shiftSteps {W : Nat} (P : BitVec W) : Nat → BitVec W → BitVec W
  | 0, r => r
  | n + 1, r => shiftSteps P n (shiftStep P r)

/-- A chunk of bits as a number, first bit most significant. -/
def chunkValue (bits : List Bool) : Nat := bits.foldl (fun v b => 2 * v + b.toNat) 0

/-- A chunk of `n` bits "XORed into bits W-1 .. W-n of r and followed by exactly n steps" (41_checksum_engine.md R145). -/
def chunkStep {W : Nat} (P r : BitVec W) (chunk : List Bool) : BitVec W :=
  shiftSteps P chunk.length (r ^^^ BitVec.ofNat W (chunkValue chunk * 2 ^ (W - chunk.length)))

/-- The byte-serial form over a sequence of chunks (41_checksum_engine.md R145, 93_implementation_defined.md I21). -/
def chkChunks {W : Nat} (P : BitVec W) (chunks : List (List Bool)) : BitVec W := chunks.foldl (chunkStep P) 0

/-- The body of CALC with remainder width `W` (41_checksum_engine.md R143, R146). -/
def bodyCalc (W ptr : Nat) (s : State) : Answer :=
  if sint32 s.opa < 0 then .fault .negativeLength
  else if ptr + ceil8 (sint32 s.opa).toNat > flen s then .fault .layoutRead
  else .next (setResult ((chk s.frame ptr (sint32 s.opa).toNat (s.poly.setWidth W)).setWidth 32) s)

/-- CALC ptr, 16. -/
def execCalc16 (ptr : Nat) (s : State) : Answer := runCommand false (posStart ptr) (bodyCalc 16) s

/-- CALC ptr, 32. -/
def execCalc32 (ptr : Nat) (s : State) : Answer := runCommand false (posStart ptr) (bodyCalc 32) s

end Sys2Proof.Machine
end

