-- ==== Sys2Proof/Machine/FrameAssembler.lean ====
section
/-! DEFINITION. The Frame Assembler commands CLEAN, SETCRC16 and SETCRC16BCH32 (43_frame_assembler.md). -/

namespace Sys2Proof.Machine

/-- The length in bits of the CRC16 domain that ends at `dataEnd`: bits `CrcOff + 16 .. dataEnd - 1`, right-aligned from
byte 2 (43_frame_assembler.md R204). -/
def crcDomainLength (s : State) (dataEnd : Nat) : Nat := dataEnd - (crcOff (activeLayout s) + 16)

/-- The CRC16 of the active frame's data up to `dataEnd` (43_frame_assembler.md R203, R204). -/
def frameCrc16 (s : State) (dataEnd : Nat) : BitVec 16 := crc16 s.frame 2 (crcDomainLength s dataEnd)

/-- The body of CLEAN (43_frame_assembler.md R200): all 32 bytes zero, which is the empty list of cells. -/
def bodyClean (_ : Nat) (s : State) : Answer :=
  .next { s with frame := [], actVariant := s.cfgVariant, actBch := s.cfgBchEn, asmState := .empty }

/-- The body of SETCRC16 (43_frame_assembler.md R203). -/
def bodySetCrc16 (p : Nat) (s : State) : Answer :=
  if p + 16 > frameBits s then .fault .layoutWrite
  else
    let crc := frameCrc16 s (frameBits s)
    .next <| setResult (crc.setWidth 32) <| sealFrame <| setFrame (putField s.frame p 16 crc.toNat) s

/-- The body of SETCRC16BCH32 (43_frame_assembler.md R206): the CRC16 at its canonical offset first, then the BCH32 over
the frame with that CRC (R207). -/
def bodySetCrc16Bch32 (b : Nat) (s : State) : Answer :=
  if b + 32 > frameBits s then .fault .layoutWrite
  else
    let dataEnd := frameBits s - 32
    let withCrc := putField s.frame (crcOff (activeLayout s)) 16 (frameCrc16 s dataEnd).toNat
    let bch := bch32 withCrc 0 dataEnd
    .next <| setResult bch <| sealFrame <| setFrame (putField withCrc b 32 bch.toNat) s

/-- CLEAN. -/
def execClean (s : State) : Answer := runCommand false (posStart 0) bodyClean s

/-- SETCRC16 p. -/
def execSetCrc16 (pos : Nat) (s : State) : Answer := runCommand false (posStart pos) bodySetCrc16 s

/-- SETCRC16 @T, at CrcOff. -/
def execSetCrc16T (s : State) : Answer := runCommand false (tableStart .crc16 s) bodySetCrc16 s

/-- SETCRC16BCH32 b. -/
def execSetCrc16Bch32 (pos : Nat) (s : State) : Answer := runCommand false (posStart pos) bodySetCrc16Bch32 s

/-- SETCRC16BCH32 @T, at BchOff; a command error when ACT_BCH = 0. -/
def execSetCrc16Bch32T (s : State) : Answer := runCommand false (tableStart .bch32 s) bodySetCrc16Bch32 s

end Sys2Proof.Machine
end

