-- ==== Sys2Proof/Machine/Dispatch.lean ====
section
/-! DEFINITION. The dispatch: one arm per command form, each one call of its meaning. -/

namespace Sys2Proof.Machine

def exec (i : Instr) (s : State) : Host.Outcome State Fault Refusal :=
  match i with
  | .clean => Sys2Proof.Machine.execClean s
  | .setBit pos => Sys2Proof.Machine.execSetBit pos s
  | .setValue pos width => Sys2Proof.Machine.execSetValue pos width s
  | .setValue32 pos => Sys2Proof.Machine.execSetValue32 pos s
  | .setAcq pos => Sys2Proof.Machine.execSetAcq pos s
  | .setAcqT => Sys2Proof.Machine.execSetAcqT s
  | .setDate pos => Sys2Proof.Machine.execSetDate pos s
  | .setDateT => Sys2Proof.Machine.execSetDateT s
  | .setLoc pos => Sys2Proof.Machine.execSetLoc pos s
  | .setLocT => Sys2Proof.Machine.execSetLocT s
  | .setUser pos => Sys2Proof.Machine.execSetUser pos s
  | .setUserT => Sys2Proof.Machine.execSetUserT s
  | .calc16 ptr => Sys2Proof.Machine.execCalc16 ptr s
  | .calc32 ptr => Sys2Proof.Machine.execCalc32 ptr s
  | .setCrc16 pos => Sys2Proof.Machine.execSetCrc16 pos s
  | .setCrc16T => Sys2Proof.Machine.execSetCrc16T s
  | .setCrc16Bch32 pos => Sys2Proof.Machine.execSetCrc16Bch32 pos s
  | .setCrc16Bch32T => Sys2Proof.Machine.execSetCrc16Bch32T s

end Sys2Proof.Machine
end

