-- ==== Sys2Proof/Machine/Engine.lean ====
section
/-! DEFINITION. The command engine's one step (60_exceptions.md R220, 70_reset_and_hazards.md R255). -/

namespace Sys2Proof.Machine

/-- `Complete(c)` (60_exceptions.md R220): decoding takes place at the completion step (30_encoding.md R97). -/
def completeCommand (c : Word) (s : State) : Answer :=
  match decode c with
  | .rejected _ => .next (outcomeCmdErr s)
  | .command i => exec i s

/-- The engine step (70_reset_and_hazards.md R255): complete, then `PEND <- none ; BUSY <- 0` unless UNDEFINED was
raised. -/
def engineStep (c : Word) (s : State) : Answer :=
  match completeCommand c s with
  | .next t => .next (retire t)
  | .fault f => .fault f
  | .refused r => .refused r

/-- The pending command completes at this step: its latency has run out, or the host makes no further access
(70_reset_and_hazards.md R255: "Every issued command completes after finitely many host steps"; log entry 3). -/
def engineReady (s : State) : Bool := s.latencyLeft == 0 || s.input.isEmpty

end Sys2Proof.Machine
end

