-- ==== Sys2Proof/Machine/HostBus.lean ====
section
/-! DEFINITION. The host's steps: the register map (20_memory.md R60, R61), reads and writes of every register and window
(10_state.md R21 to R36), the rules of a host access (20_memory.md R65, 70_reset_and_hazards.md R256), the WAIT loop and
the platform's reset (70_reset_and_hazards.md R250). -/

namespace Sys2Proof.Machine

/-- What an offset names (20_memory.md R60). -/
inductive HostReg where
  | cmd
  | opa
  | opb
  | opc
  | poly
  | cfg
  | status
  | result
  | flenr
  /-- Word `k` of the FRAME window. -/
  | frame (k : Nat)
  /-- Word `k` of the USERBUF window. -/
  | userBuf (k : Nat)
  | reserved
  deriving DecidableEq, Repr

/-- The register map at 4-byte aligned offsets 0x000..0x0FF (20_memory.md R60). -/
def hostReg (offset : Nat) : HostReg :=
  if offset = 0x000 then .cmd
  else if offset = 0x004 then .opa
  else if offset = 0x008 then .opb
  else if offset = 0x00C then .opc
  else if offset = 0x010 then .poly
  else if offset = 0x014 then .cfg
  else if offset = 0x018 then .status
  else if offset = 0x01C then .result
  else if offset = 0x020 then .flenr
  else if 0x080 ≤ offset ∧ offset < 0x0A0 then .frame ((offset - 0x080) / 4)
  else if 0x0C0 ≤ offset ∧ offset < 0x0E0 then .userBuf ((offset - 0x0C0) / 4)
  else .reserved

/-- A window word: `MemRead(4k, 4)` (20_memory.md R61). -/
def windowWord (m : Memory) (k : Nat) : Word := BitVec.ofNat 32 (memRead m (4 * k) 4)

/-- `MemWrite(4k, 4, v)` (20_memory.md R61). -/
def windowWrite (m : Memory) (k : Nat) (v : Word) : Memory := memWrite m (4 * k) 4 v.toNat

/-- The value a host read returns (10_state.md R21 to R34, 20_memory.md R60, R61). -/
def readReg (r : HostReg) (s : State) : Word :=
  match r with
  | .cmd => 0
  | .opa => s.opa
  | .opb => s.opb
  | .opc => s.opc
  | .poly => s.poly
  | .cfg => cfgWord s
  | .status => statusWord s
  | .result => s.result
  | .flenr => BitVec.ofNat 32 (flen s)
  | .frame k => windowWord s.frame k
  | .userBuf k => windowWord s.userBuf k
  | .reserved => 0

/-- `PEND <- c ; STATUS.BUSY <- 1` (70_reset_and_hazards.md R255), with the command's latency (log entry 2). -/
def issue (c : Word) (s : State) : State :=
  { s with pend := some c, latencyLeft := Config.cmdLatency s.issued, issued := s.issued + 1 }

/-- What a host write does (10_state.md R21 to R34, 20_memory.md R60 to R62): a FRAME window write is a frame write. -/
def writeReg (r : HostReg) (v : Word) (s : State) : State :=
  match r with
  | .cmd => issue v s
  | .opa => { s with opa := v }
  | .opb => { s with opb := v }
  | .opc => { s with opc := v }
  | .poly => { s with poly := v }
  | .cfg => writeCfg v s
  | .status => s
  | .result => s
  | .flenr => s
  | .frame k => frameWritten (setFrame (windowWrite s.frame k v) s)
  | .userBuf k => { s with userBuf := windowWrite s.userBuf k v }
  | .reserved => s

/-- A 32-bit access at a 4-byte aligned offset, the only kind the spec defines (20_memory.md R65). -/
def accessDefined (offset : BitVec 8) (bits : Nat) : Bool := bits == 32 && offset.toNat % 4 == 0

/-- One host access has passed; it counts while a command is pending (70_reset_and_hazards.md R263). -/
def tick (s : State) : State :=
  { s with latencyLeft := if busy s then s.latencyLeft - 1 else s.latencyLeft }

/-- A host read (20_memory.md R65, R66; while a command is pending only STATUS, 70_reset_and_hazards.md R256). -/
def hostRead (offset : BitVec 8) (bits : Nat) (s : State) : Answer :=
  if accessDefined offset bits then
    if busy s ∧ hostReg offset.toNat ≠ .status then .fault .accessWhileBusy
    else .next (tick { s with reads := readReg (hostReg offset.toNat) s :: s.reads })
  else .fault .badHostAccess

/-- A host write (20_memory.md R65, R66; none while a command is pending, 70_reset_and_hazards.md R256). -/
def hostWrite (offset : BitVec 8) (bits : Nat) (v : Word) (s : State) : Answer :=
  if accessDefined offset bits then
    if busy s then .fault .accessWhileBusy
    else .next (writeReg (hostReg offset.toNat) v s)
  else .fault .badHostAccess

/-- The reset event (70_reset_and_hazards.md R250): every piece of the block's state to its reset value; what the host has
still to do and has read is not the block's (log entry 14). -/
def platformReset (s : State) : State :=
  { State.reset with issued := s.issued, input := s.input, reads := s.reads }

/-- One event of the host or the platform, `rest` being the events after it. -/
def hostStep (e : HostEvent) (rest : List HostEvent) (s : State) : Answer :=
  match e with
  | .read offset bits => hostRead offset bits { s with input := rest }
  | .write offset bits v => hostWrite offset bits v { s with input := rest }
  | .waitReady => if busy s then .next (tick s) else .next { s with input := rest }
  | .reset => .next (platformReset { s with input := rest })
  | .otherAgent => .refused .secondBusAgent

/-- The host's turn: its next event, or nothing at all when it has none (60_exceptions.md R241: the block's state is kept
while it is idle; log entry 5). -/
def hostTurn (s : State) : Answer :=
  match s.input with
  | [] => .next s
  | e :: rest => hostStep e rest s

end Sys2Proof.Machine
end

