-- ==== Sys2Proof/Machine/Step.lean ====
section
/-! DEFINITION. One step of the block with its host: the engine's step when the pending command completes, else the
host's next event (00_scope.md R14, 70_reset_and_hazards.md R255). -/

namespace Sys2Proof.Machine

/-- The step: the pending command completes, else the host has its turn (70_reset_and_hazards.md R255; log entry 3). -/
def step (s : State) : Host.Outcome State Fault Refusal :=
  match s.pend with
  | some c => if engineReady s then engineStep c s else hostTurn s
  | none => hostTurn s

/-- The state in which the host has issued the command word `w` (its low `nbits` bits) and the engine step is next:
commands are not fetched from memory but taken from PEND (20_memory.md R73, 10_state.md R38; log entry 4). -/
def State.withFetchWord (s : State) (nbits w : Nat) : State :=
  { s with pend := some (BitVec.ofNat 32 (w % 2 ^ nbits)), latencyLeft := 0 }

end Sys2Proof.Machine
end

