-- ==== Sys2Proof/Machine/Assembler.lean ====
section
/-! DEFINITION. The tool side of the command set: the command syntax of 30_encoding.md R103, from a line of text to the
command it names and its word (R100). Letter case, blanks and number forms are as in log entry 18. -/

namespace Sys2Proof.Machine

/-- An operand of a command line: a number or `@T` (30_encoding.md R103). -/
inductive AsmOperand where
  | num (n : Nat)
  | table
  deriving DecidableEq, Repr

/-- The text without blanks in front and behind. -/
def trimBlanks (t : List Char) : List Char :=
  ((t.dropWhile (· == ' ')).reverse.dropWhile (· == ' ')).reverse

/-- The parts of a text between commas. -/
def splitCommas : List Char → List (List Char)
  | [] => [[]]
  | c :: rest =>
    if c == ',' then [] :: splitCommas rest
    else
      match splitCommas rest with
      | [] => [[c]]
      | part :: parts => (c :: part) :: parts

/-- The value of a digit, letters counting from 10. -/
def digitValue (c : Char) : Nat :=
  if '0' ≤ c ∧ c ≤ '9' then c.toNat - 48
  else if 'a' ≤ c ∧ c ≤ 'f' then c.toNat - 87
  else if 'A' ≤ c ∧ c ≤ 'F' then c.toNat - 55
  else 16

/-- The number a run of digits stands for, `none` where it is empty or holds anything else. -/
def digitsValue (base : Nat) (t : List Char) : Option Nat :=
  if t.isEmpty ∨ ¬ t.all (fun c => digitValue c < base) then none
  else some (t.foldl (fun v c => base * v + digitValue c) 0)

/-- "numbers are decimal or `0x` hexadecimal; `@T` stands for the table form" (30_encoding.md R103). -/
def asmOperand (t : List Char) : Option AsmOperand :=
  match t with
  | ['@', 'T'] => some .table
  | '0' :: 'x' :: digits => (digitsValue 16 digits).map .num
  | digits => (digitsValue 10 digits).map .num

/-- The operands of a command line; none at all where nothing stands after the mnemonic. -/
def asmOperands (t : List Char) : Option (List AsmOperand) :=
  if (trimBlanks t).isEmpty then some []
  else (splitCommas t).mapM fun part => asmOperand (trimBlanks part)

/-- The mnemonics of 30_encoding.md R103. -/
def asmMnemonic (t : List Char) : Option Op :=
  if t = ['C', 'L', 'E', 'A', 'N'] then some .clean
  else if t = ['S', 'E', 'T', 'B', 'I', 'T'] then some .setBit
  else if t = ['S', 'E', 'T', 'V', 'A', 'L', 'U', 'E'] then some .setValue
  else if t = ['S', 'E', 'T', 'A', 'C', 'Q'] then some .setAcq
  else if t = ['S', 'E', 'T', 'D', 'A', 'T', 'E'] then some .setDate
  else if t = ['S', 'E', 'T', 'L', 'O', 'C'] then some .setLoc
  else if t = ['S', 'E', 'T', 'U', 'S', 'E', 'R'] then some .setUser
  else if t = ['C', 'A', 'L', 'C'] then some .calc
  else if t = ['S', 'E', 'T', 'C', 'R', 'C', '1', '6'] then some .setCrc16
  else if t = ['S', 'E', 'T', 'C', 'R', 'C', '1', '6', 'B', 'C', 'H', '3', '2'] then some .setCrc16Bch32
  else none

/-- A command with a positional and a table form (30_encoding.md R103). -/
def asmDual (positional : Nat → Instr) (table : Instr) : List AsmOperand → Option Instr
  | [.num p] => some (positional p)
  | [.table] => some table
  | _ => none

/-- The command a mnemonic and its operands name (30_encoding.md R103, one line of the rule's table each). -/
def asmCommand (op : Op) (operands : List AsmOperand) : Option Instr :=
  match op with
  | .clean => if operands.isEmpty then some .clean else none
  | .setBit =>
    match operands with
    | [.num p] => some (.setBit p)
    | _ => none
  | .setValue =>
    match operands with
    | [.num p, .num w] =>
      if w < 32 then some (.setValue p w) else if w = 32 then some (.setValue32 p) else none
    | _ => none
  | .setAcq => asmDual .setAcq .setAcqT operands
  | .setDate => asmDual .setDate .setDateT operands
  | .setLoc => asmDual .setLoc .setLocT operands
  | .setUser => asmDual .setUser .setUserT operands
  | .calc =>
    match operands with
    | [.num ptr, .num w] => if w = 16 then some (.calc16 ptr) else if w = 32 then some (.calc32 ptr) else none
    | _ => none
  | .setCrc16 => asmDual .setCrc16 .setCrc16T operands
  | .setCrc16Bch32 => asmDual .setCrc16Bch32 .setCrc16Bch32T operands

/-- A line of command syntax: "Mnemonic, then operands separated by commas" (30_encoding.md R103). -/
def asmLine (t : List Char) : Option Instr :=
  let line := trimBlanks t
  match asmMnemonic (line.takeWhile (· != ' ')), asmOperands (line.dropWhile (· != ' ')) with
  | some op, some operands => asmCommand op operands
  | _, _ => none

/-- The word of a line, refused where an operand does not fit its field (30_encoding.md R100, R103). -/
def assemble (t : List Char) : Option Word := (asmLine t).bind encodeChecked

end Sys2Proof.Machine
end

