-- ==== Sys2Proof/Machine/HostProgram.lean ====
section
/-! DEFINITION. Host programs (30_encoding.md R104): the lines of the notation, its pseudo-instructions, and the source's
calls, as the lists of host events they expand to. A line that names no register or window word, or a command with an
operand outside its field, is refused (R100; log entry 19). -/

namespace Sys2Proof.Machine

/-- The offset of a register or of a window word `FRAME+4k`, `USERBUF+4k`, `k` in 0..7 (20_memory.md R60, R61); `none` for
anything the notation has no name for. -/
def hostOffset (r : HostReg) : Option (BitVec 8) :=
  match r with
  | .cmd => some 0x00
  | .opa => some 0x04
  | .opb => some 0x08
  | .opc => some 0x0C
  | .poly => some 0x10
  | .cfg => some 0x14
  | .status => some 0x18
  | .result => some 0x1C
  | .flenr => some 0x20
  | .frame k => if k < 8 then some (BitVec.ofNat 8 (0x80 + 4 * k)) else none
  | .userBuf k => if k < 8 then some (BitVec.ofNat 8 (0xC0 + 4 * k)) else none
  | .reserved => none

/-- A line of a host program (30_encoding.md R104): the four basic lines, then the pseudo-instructions. -/
inductive HostLine where
  /-- `WR reg, v` -/
  | wr (reg : HostReg) (v : Word)
  /-- `RD reg`, or `RD reg -> v` with the expected value. -/
  | rd (reg : HostReg) (expected : Option Word)
  /-- `CMD <command>` -/
  | cmd (i : Instr)
  /-- `CMD w` with the word itself, legal or not, as program P5 writes `CMD 0x00000000` (95_test_vectors.md). DEDUCED: R104
  has only `CMD <command>`, and no rule says that CMD takes a raw word (log entry 20). -/
  | cmdWord (w : Word)
  /-- `WAIT` -/
  | wait
  /-- `DO <command>` -/
  | run (i : Instr)
  /-- `NEWFRAME var, bch` with `var` one of the three variants. DESIGN CHOICE: R104 gives `var` no range, and the line has no
  form for `var = 3`; a host writes that CFG value with `WR CFG` (log entry 21). -/
  | newFrame (variant : Variant) (bch : Bool)
  /-- `CRC16 ptr, L` -/
  | crc16 (ptr : Nat) (L : Word)
  /-- `BCH32 ptr, L` -/
  | bch32 (ptr : Nat) (L : Word)
  /-- `FCS32 ptr, L` -/
  | fcs32 (ptr : Nat) (L : Word)
  deriving DecidableEq, Repr

/-- What a line expands to: its host accesses in order, or `none` where the tool refuses it. -/
abbrev Expansion := Option (List HostEvent)

/-- One expansion after the other; refused where either is. -/
def andThen (a b : Expansion) : Expansion :=
  match a, b with
  | some x, some y => some (x ++ y)
  | none, _ => none
  | some _, none => none

/-- `WR reg, v` as a host access. -/
def wrEvents (reg : HostReg) (v : Word) : Expansion := (hostOffset reg).map fun offset => [.write offset 32 v]

/-- `RD reg` as a host access. -/
def rdEvents (reg : HostReg) : Expansion := (hostOffset reg).map fun offset => [.read offset 32]

/-- `CMD <command>`: `WR CMD, <word of the command>`, the word as the checked encoder gives it (30_encoding.md R100). -/
def cmdEvents (i : Instr) : Expansion := (encodeChecked i).bind fun w => wrEvents .cmd w

/-- `DO <command>`: `CMD <command>` then `WAIT`. -/
def runEvents (i : Instr) : Expansion := andThen (cmdEvents i) (some [.waitReady])

/-- The CFG word of `NEWFRAME var, bch`: `(bch << 3) OR (var << 1) OR 1` (30_encoding.md R104), for the
three variants only (DESIGN CHOICE, log entry 21). -/
def newFrameCfg (variant : Variant) (bch : Bool) : Word :=
  BitVec.ofNat 32 (8 * bch.toNat + 2 * variantCode variant + 1)

/-- `WR POLY, poly`; `WR OPA, L`; `DO <CALC>`: the three checksum pseudo-instructions. -/
def calcEvents (poly L : Word) (i : Instr) : Expansion :=
  andThen (wrEvents .poly poly) (andThen (wrEvents .opa L) (runEvents i))

/-- The expansion of a line into host accesses (30_encoding.md R104, both tables). -/
def expandLine (line : HostLine) : Expansion :=
  match line with
  | .wr reg v => wrEvents reg v
  | .rd reg _ => rdEvents reg
  | .cmd i => cmdEvents i
  | .cmdWord w => wrEvents .cmd w
  | .wait => some [.waitReady]
  | .run i => runEvents i
  | .newFrame variant bch => andThen (wrEvents .cfg (newFrameCfg variant bch)) (runEvents .clean)
  | .crc16 ptr L => calcEvents 0x00001021 L (.calc16 ptr)
  | .bch32 ptr L => calcEvents 0xEE5B42FD L (.calc32 ptr)
  | .fcs32 ptr L => calcEvents 0x04C11DB7 L (.calc32 ptr)

/-- The accesses of a host program (30_encoding.md R104), refused where a line is. -/
def expandProgram : List HostLine → Expansion
  | [] => some []
  | line :: rest => andThen (expandLine line) (expandProgram rest)

/-- The values the `RD` lines of a program expect, in order; `none` for a line that names no value. -/
def expectedReads (lines : List HostLine) : List (Option Word) :=
  lines.flatMap fun line =>
    match line with
    | .rd _ expected => [expected]
    | .wr _ _ | .cmd _ | .cmdWord _ | .wait | .run _ | .newFrame _ _ | .crc16 _ _ | .bch32 _ _ | .fcs32 _ _ => []

/-- Values read agree with the values expected: as many, and each the one named. -/
def readsAgree : List (Option Word) → List Word → Bool
  | [], [] => true
  | [], _ :: _ => false
  | _ :: _, [] => false
  | e :: es, w :: ws => (e == none || e == some w) && readsAgree es ws

/-- The run of a program that began with nothing read has returned the values its `-> v` name (30_encoding.md R104). -/
def programAgrees (lines : List HostLine) (s : State) : Bool := readsAgree (expectedReads lines) s.reads.reverse

/-- The source's calls (30_encoding.md R104, last paragraph); a null frame handle is a CFG write with bit 0 clear. -/
inductive SourceCall where
  | setBit (v : Word) (p : Nat)
  | setValue (v : Word) (p w : Nat)
  | calc16 (ptr : Nat) (L : Word) (poly : Nat)
  | calc32 (ptr : Nat) (L : Word) (poly : Nat)
  | setCrc16 (position : Nat)
  | setCrc16AndBch32 (bchPosition : Nat)
  | nullHandle (cfg : Word)
  deriving DecidableEq, Repr

/-- The host lines a source call maps to (30_encoding.md R104, last paragraph); an operand outside its field is refused
when they are expanded. -/
def callLines (call : SourceCall) : List HostLine :=
  match call with
  | .setBit v p => [.wr .opa v, .run (.setBit p)]
  | .setValue v p w => [.wr .opa v, .run (if w = 32 then .setValue32 p else .setValue p w)]
  | .calc16 ptr L poly => [.wr .poly (BitVec.ofNat 32 (poly % 2 ^ 16)), .wr .opa L, .run (.calc16 ptr)]
  | .calc32 ptr L poly => [.wr .poly (BitVec.ofNat 32 (poly % 2 ^ 32)), .wr .opa L, .run (.calc32 ptr)]
  | .setCrc16 position => [.run (.setCrc16 position)]
  | .setCrc16AndBch32 bchPosition => [.run (.setCrc16Bch32 bchPosition)]
  | .nullHandle cfg => [.wr .cfg (cfg &&& ~~~1)]

/-- The host accesses of a source call, refused where an operand does not fit its field. -/
def callEvents (call : SourceCall) : Expansion := expandProgram (callLines call)

end Sys2Proof.Machine
end

