-- ==== Sys2Proof/Safety.lean ====
section
/-! DEFINITION. What counts as a sound state, the end of a run and its observation (70_reset_and_hazards.md R264), and the
words the statements are written in: what a field of a frame holds, what is kept, which form lacks its field
(60_exceptions.md R223), which violates the layout (R228). These are written from the rules, not from the meanings. -/

namespace Sys2Proof.Machine

/-- The invariant every step keeps: both buffers canonical; CMDERR and INVALID never both 1 (60_exceptions.md R230); an
Empty frame is all zero (43_frame_assembler.md R197: "Empty (all zero)"); no latency runs when nothing is pending. -/
def Inv (s : State) : Prop :=
  s.frame.wf = true ∧ s.userBuf.wf = true ∧ ¬ (s.cmdErr = true ∧ s.invalid = true) ∧
    (s.asmState = .empty → s.frame = []) ∧ (s.pend = none → s.latencyLeft = 0)

/-- "A host program's run ends when": the host has made its last access and PEND = none (70_reset_and_hazards.md R264);
a recorded fault leaves no state to ask about. -/
def RunEnded (s : State) : Prop := s.input = [] ∧ s.pend = none

/-- The observation of an ended run: every register of 10_state.md, FRAME and USERBUF (70_reset_and_hazards.md R264). -/
structure Observation where
  opa : Word
  opb : Word
  opc : Word
  poly : Word
  cfg : Word
  status : Word
  result : Word
  flenr : Word
  frame : List Byte
  userBuf : List Byte
  deriving DecidableEq, Repr

/-- What can be observed of a state (70_reset_and_hazards.md R264). -/
def observe (s : State) : Observation where
  opa := s.opa
  opb := s.opb
  opc := s.opc
  poly := s.poly
  cfg := cfgWord s
  status := statusWord s
  result := s.result
  flenr := BitVec.ofNat 32 (flen s)
  frame := (List.range Config.bufferBytes).map (readByte s.frame)
  userBuf := (List.range Config.bufferBytes).map (readByte s.userBuf)

/-- The `w` bits from position `p` hold the `w` low-order bits of `v`, most significant first (40_bit_packer.md R124). -/
def FieldHolds (m : Memory) (p w v : Nat) : Prop := ∀ i, i < w → getBit m (p + i) = v.testBit (w - 1 - i)

/-- The number the `w` bits from position `p` stand for: the sum of `GetBit(p+i) * 2^(w-1-i)` (40_bit_packer.md R129). -/
def fieldValue (m : Memory) (p : Nat) : Nat → Nat
  | 0 => 0
  | w + 1 => (getBit m p).toNat * 2 ^ w + fieldValue m (p + 1) w

/-- Every bit outside `p .. p+w-1`, and every byte that holds none of these bits, is as before. -/
def KeptOutside (m m' : Memory) (p w : Nat) : Prop :=
  (∀ q, q < p ∨ p + w ≤ q → getBit m' q = getBit m q) ∧
    ∀ a, 8 * a + 7 < p ∨ p + w ≤ 8 * a → readByte m' a = readByte m a

/-- STATE after a frame write: Empty becomes Populated (43_frame_assembler.md R198). -/
def stateAfterWrite (s : State) : AsmState := if s.asmState = .empty then .populated else s.asmState

/-- A normal completion that wrote the frame bits `p .. p+bits-1` and returns its last position: those bits and what
stands here apart, nothing changed (42_field_encoder.md R160, 43_frame_assembler.md R198, 60_exceptions.md R221). -/
def WroteField (s t : State) (p bits : Nat) : Prop :=
  KeptOutside s.frame t.frame p bits ∧
    t = { s with
      frame := t.frame, asmState := stateAfterWrite s, result := BitVec.ofNat 32 (p + bits - 1), cmdErr := false,
      invalid := false }

/-- The code of a variant in CFG[2:1] and STATUS[6:5] as 10_state.md R27 states it. -/
def specVariantCode : Variant → Nat
  | .p => 0
  | .e => 1
  | .u => 2

/-- The code of an assembler state in STATUS[4:3] as 10_state.md R32 states it. -/
def specStateCode : AsmState → Nat
  | .empty => 0
  | .populated => 1
  | .sealed => 2

/-- The number in a CFG word: ATTACH in bit 0, VARIANT in bits 2:1, BCH_EN in bit 3 (10_state.md R26). -/
def specCfg (s : State) : Nat := s.attach.toNat + 2 * specVariantCode s.cfgVariant + 8 * s.cfgBchEn.toNat

/-- The number in a STATUS word whose bit 0, BUSY, is given: INVALID 1, CMDERR 2, STATE 4:3, ACT_VARIANT 6:5, ACT_BCH 7
(10_state.md R30). -/
def specStatus (busyBit : Nat) (s : State) : Nat :=
  busyBit + 2 * s.invalid.toNat + 4 * s.cmdErr.toNat + 8 * specStateCode s.asmState +
    32 * specVariantCode s.actVariant + 128 * s.actBch.toNat

/-- A word holds the four bytes of a buffer from `4k` on, the first in bits 31:24 (20_memory.md R61). -/
def HoldsWindow (m : Memory) (k : Nat) (w : Word) : Prop :=
  ∀ j, j < 4 → w.toNat / 2 ^ (8 * (3 - j)) % 256 = (readByte m (4 * k + j)).toNat

/-- `CrcOff(variant)` as 43_frame_assembler.md R194 states it. -/
def specCrcOff : Variant → Nat
  | .p => 0
  | .e => 4
  | .u => 0

/-- `Capacity(variant, bch)` as 43_frame_assembler.md R193 states it. -/
def specCapacity : Variant → Bool → Nat × Bool
  | .p, _ => (16, false)
  | .e, _ => (15, true)
  | .u, false => (29, false)
  | .u, true => (25, false)

/-- The width of the user-data field, `8*cap + 4*nib` (43_frame_assembler.md R193). -/
def userBits (s : State) : Nat :=
  8 * (specCapacity s.actVariant s.actBch).1 + 4 * (specCapacity s.actVariant s.actBch).2.toNat

/-- The commands that return a position (60_exceptions.md R224: SETVALUE, SETACQ, SETDATE, SETLOC, SETUSER). -/
def positionReturning : Instr → Bool
  | .setValue _ _ | .setValue32 _ | .setAcq _ | .setAcqT | .setDate _ | .setDateT | .setLoc _ | .setLocT
  | .setUser _ | .setUserT => true
  | .clean | .setBit _ | .calc16 _ | .calc32 _ | .setCrc16 _ | .setCrc16T | .setCrc16Bch32 _ | .setCrc16Bch32T => false

/-- Cause 9 of 60_exceptions.md R223: "SETACQ, SETDATE or SETLOC in variant U, or SETCRC16BCH32 with ACT_BCH = 0". -/
def lacksField (i : Instr) (s : State) : Bool :=
  match i with
  | .setAcqT | .setDateT | .setLocT => s.actVariant == .u
  | .setCrc16Bch32T => !s.actBch
  | .clean | .setBit _ | .setValue _ _ | .setValue32 _ | .setAcq _ | .setDate _ | .setLoc _ | .setUser _ | .setUserT
  | .calc16 _ | .calc32 _ | .setCrc16 _ | .setCrc16T | .setCrc16Bch32 _ => false

/-- CALC's condition of 60_exceptions.md R228: `L < 0` or `POS + ceil8(L) > FLEN`, with `L = sint_32(OPA)`. -/
def calcViolates (ptr : Nat) (s : State) : Prop := s.opa.toInt < 0 ∨ (ptr : Int) + (s.opa.toInt + 7) / 8 > flen s

/-- "UNDEFINED when", per command (60_exceptions.md R228); the `.T` forms and CLEAN never are. -/
def violatesLayout (i : Instr) (s : State) : Prop :=
  match i with
  | .setBit p => p ≥ 8 * flen s
  | .setValue p w => w > 0 ∧ p + w > 8 * flen s
  | .setValue32 p => p + 32 > 8 * flen s
  | .setAcq p => p + 3 > 8 * flen s
  | .setDate p => p + 16 > 8 * flen s
  | .setLoc p => p + 53 > 8 * flen s
  | .setUser p => p + userBits s > 8 * flen s
  | .calc16 ptr | .calc32 ptr => calcViolates ptr s
  | .setCrc16 p => p + 16 > 8 * flen s
  | .setCrc16Bch32 b => b + 32 > 8 * flen s
  | .clean | .setAcqT | .setDateT | .setLocT | .setUserT | .setCrc16T | .setCrc16Bch32T => False

/-- The commands that call FrameWritten when they complete (43_frame_assembler.md R198: SETBIT; SETVALUE with WIDTH > 0;
SETACQ, SETDATE, SETLOC, SETUSER). -/
def writesFrame : Instr → Bool
  | .setValue _ w => decide (w > 0)
  | .setBit _ | .setValue32 _ | .setAcq _ | .setAcqT | .setDate _ | .setDateT | .setLoc _ | .setLocT | .setUser _
  | .setUserT => true
  | .clean | .calc16 _ | .calc32 _ | .setCrc16 _ | .setCrc16T | .setCrc16Bch32 _ | .setCrc16Bch32T => false

/-- The two checksum setters (43_frame_assembler.md R199). -/
def isSetter : Instr → Bool
  | .setCrc16 _ | .setCrc16T | .setCrc16Bch32 _ | .setCrc16Bch32T => true
  | .clean | .setBit _ | .setValue _ _ | .setValue32 _ | .setAcq _ | .setAcqT | .setDate _ | .setDateT | .setLoc _
  | .setLocT | .setUser _ | .setUserT | .calc16 _ | .calc32 _ => false

/-- The commands that read OPB and OPC (30_encoding.md R99: SETDATE and SETLOC). -/
def readsOpbOpc : Instr → Bool
  | .setDate _ | .setDateT | .setLoc _ | .setLocT => true
  | .clean | .setBit _ | .setValue _ _ | .setValue32 _ | .setAcq _ | .setAcqT | .setUser _ | .setUserT | .calc16 _
  | .calc32 _ | .setCrc16 _ | .setCrc16T | .setCrc16Bch32 _ | .setCrc16Bch32T => false

/-- The commands that read POLY (30_encoding.md R99: CALC). -/
def readsPoly : Instr → Bool
  | .calc16 _ | .calc32 _ => true
  | .clean | .setBit _ | .setValue _ _ | .setValue32 _ | .setAcq _ | .setAcqT | .setDate _ | .setDateT | .setLoc _
  | .setLocT | .setUser _ | .setUserT | .setCrc16 _ | .setCrc16T | .setCrc16Bch32 _ | .setCrc16Bch32T => false

/-- The commands that read USERBUF (30_encoding.md R99: SETUSER). -/
def readsUserBuf : Instr → Bool
  | .setUser _ | .setUserT => true
  | .clean | .setBit _ | .setValue _ _ | .setValue32 _ | .setAcq _ | .setAcqT | .setDate _ | .setDateT | .setLoc _
  | .setLocT | .calc16 _ | .calc32 _ | .setCrc16 _ | .setCrc16T | .setCrc16Bch32 _ | .setCrc16Bch32T => false

/-- The commands that read no operand register at all (30_encoding.md R99: CLEAN and the setters). -/
def readsNoOperand (i : Instr) : Bool := isSetter i || i == .clean

/-- An answer with its next state changed by `f`: two runs side by side. -/
def mapNext (f : State → State) (a : Answer) : Answer :=
  match a with
  | .next t => .next (f t)
  | .fault r => .fault r
  | .refused r => .refused r

/-- Fields that follow each other without a gap or an overlap from bit `start` to bit `stop` (43_frame_assembler.md R192). -/
def Contiguous (start : Nat) : List FieldDescriptor → Nat → Prop
  | [], stop => start = stop
  | d :: rest, stop => d.offset = start ∧ Contiguous (start + d.width) rest stop

/-- The bits a word has set among the reserved ones, 7 and 31:22 (60_exceptions.md R223, cause 2). -/
def reservedBitSet (c : Word) : Prop := c.getLsbD 7 = true ∨ ∃ k, 22 ≤ k ∧ k ≤ 31 ∧ c.getLsbD k = true

/-- The causes of a command error (60_exceptions.md R223), on the fields OP = `c[5:0]`, TBL = `c[6]`, POS = `c[15:8]` and
WIDTH = `c[21:16]` of the word and on the active configuration. -/
def CommandErrorCause (c : Word) (s : State) : Prop :=
  let op := (c.extractLsb' 0 6).toNat
  let tbl := c.getLsbD 6
  let pos := (c.extractLsb' 8 8).toNat
  let width := (c.extractLsb' 16 6).toNat
  -- 1: OP is unassigned
  (op = 0x00 ∨ (0x04 ≤ op ∧ op ≤ 0x07) ∨ (0x0C ≤ op ∧ op ≤ 0x0F) ∨ (0x13 ≤ op ∧ op ≤ 0x3F)) ∨
  -- 2: a reserved bit is set
  reservedBitSet c ∨
  -- 3: TBL = 1 on CLEAN, SETBIT, SETVALUE or CALC
  (tbl = true ∧ (op = 0x01 ∨ op = 0x02 ∨ op = 0x03 ∨ op = 0x10)) ∨
  -- 4: TBL = 1 with POS not 0
  (tbl = true ∧ pos ≠ 0) ∨
  -- 5: WIDTH is not 0 on a command other than SETVALUE and CALC
  (width ≠ 0 ∧ op ≠ 0x03 ∧ op ≠ 0x10) ∨
  -- 6: WIDTH is 33..63 on SETVALUE
  (33 ≤ width ∧ op = 0x03) ∨
  -- 7: WIDTH is not 16 or 32 on CALC
  (width ≠ 16 ∧ width ≠ 32 ∧ op = 0x10) ∨
  -- 8: POS is not 0 on CLEAN
  (pos ≠ 0 ∧ op = 0x01) ∨
  -- 9: a `.T` form names a field the active table lacks
  (tbl = true ∧ (((op = 0x08 ∨ op = 0x09 ∨ op = 0x0A) ∧ s.actVariant = .u) ∨ (op = 0x12 ∧ s.actBch = false)))

end Sys2Proof.Machine
end

