-- ==== Sys2Proof/Certificates/Slice0/Obligations.lean ====
section
/-! DEFINITION. The statements for the provers, each citing the rules of spec/ it formalises. -/

open Sys2Proof Sys2Proof.Machine

/-! ## Encoding and decoding (30_encoding.md) -/

/-- Decode after encode, for every well-formed command form and every operand value (30_encoding.md R96, R97, R100). -/
def Obligations.DecodeOfEncodeIsTheCommand : Prop :=
  ∀ i : Instr, i.wellFormed = true → decode (encode i) = .command i

/-- Every word that decodes is the word of the form it decodes to, which is well formed: each word has one meaning and no
bit of it is dropped (30_encoding.md R96, R100). -/
def Obligations.EncodeOfDecodeIsTheWord : Prop :=
  ∀ (c : Word) (i : Instr), decode c = .command i → encode i = c ∧ i.wellFormed = true

/-- The decoder accepts exactly the words some row of the opcode map matches, and no word matches two rows
(30_encoding.md R96, R97). -/
def Obligations.DecoderAcceptsExactlyTheOpcodeMap : Prop :=
  (∀ c : Word, (∃ i, decode c = .command i) ↔ ∃ r ∈ opcodeRows, c &&& r.mask = r.pattern) ∧
    ∀ (c : Word), ∀ r ∈ opcodeRows, ∀ r' ∈ opcodeRows, c &&& r.mask = r.pattern → c &&& r'.mask = r'.pattern → r = r'

/-- A word is a command error exactly when one of the nine causes of 60_exceptions.md R223 holds, whatever CFG.ATTACH is;
the all-zero word is one. -/
def Obligations.CommandErrorExactlyForItsCauses : Prop :=
  (∀ (c : Word) (s : State), (∃ t, completeCommand c s = .next t ∧ t.cmdErr = true) ↔ CommandErrorCause c s) ∧
    ∀ s : State, CommandErrorCause 0x00000000 s

/-- Words written out from 30_encoding.md R90 and R96, one of each family, decode to the commands of R105 and T-DEC-1. -/
def Obligations.SampleWordsDecode : Prop :=
  decode 0x00000001 = .command .clean ∧ decode 0x00000702 = .command (.setBit 7) ∧
    decode 0x00162303 = .command (.setValue 35 22) ∧ decode 0x00200403 = .command (.setValue32 4) ∧
    decode 0x00001008 = .command (.setAcq 16) ∧ decode 0x0000004A = .command .setLocT ∧
    decode 0x00100210 = .command (.calc16 2) ∧ decode 0x0000D812 = .command (.setCrc16Bch32 216) ∧
    decode 0x00000080 = .rejected .reservedBits

/-- The command syntax gives the words of the rule's examples (30_encoding.md R105). -/
def Obligations.SyntaxExamplesAssemble : Prop :=
  assemble "CLEAN".toList = some 0x00000001 ∧ assemble "SETBIT 7".toList = some 0x00000702 ∧
    assemble "SETVALUE 35, 22".toList = some 0x00162303 ∧ assemble "SETVALUE 4, 32".toList = some 0x00200403 ∧
    assemble "SETVALUE 0, 4".toList = some 0x00040003 ∧ assemble "SETACQ 16".toList = some 0x00001008 ∧
    assemble "SETACQ @T".toList = some 0x00000048 ∧ assemble "SETDATE @T".toList = some 0x00000049 ∧
    assemble "SETLOC @T".toList = some 0x0000004A ∧ assemble "SETUSER @T".toList = some 0x0000004B ∧
    assemble "CALC 0, 16".toList = some 0x00100010 ∧ assemble "CALC 2, 16".toList = some 0x00100210 ∧
    assemble "CALC 0, 32".toList = some 0x00200010 ∧ assemble "SETCRC16 0".toList = some 0x00000011 ∧
    assemble "SETCRC16 @T".toList = some 0x00000051 ∧ assemble "SETCRC16BCH32 216".toList = some 0x0000D812 ∧
    assemble "SETCRC16BCH32 @T".toList = some 0x00000052

/-! ## The step -/

/-- When the engine's step is due and the pending word decodes, the step is the command's exec, with PEND (and the model's
latency counter) cleared unless UNDEFINED was raised (60_exceptions.md R220, 70_reset_and_hazards.md R255). When it is
due is the model's choice (log entries 2 and 3). -/
def Obligations.StepRunsThePendingCommand : Prop :=
  ∀ (s : State) (c : Word) (i : Instr), s.pend = some c → (s.latencyLeft = 0 ∨ s.input = []) → decode c = .command i →
    step s =
      match exec i s with
      | .next t => .next { t with pend := none, latencyLeft := 0 }
      | .fault f => .fault f
      | .refused r => .refused r

/-- A CMD write issues its word: PEND holds it, BUSY reads 1, and nothing else of the block changes (10_state.md R21,
R38, 70_reset_and_hazards.md R255). -/
def Obligations.CmdWriteIssuesTheCommand : Prop :=
  ∀ (s : State) (c : Word) (rest : List HostEvent), s.pend = none → s.input = .write 0x00 32 c :: rest →
    ∃ t, step s = .next t ∧ t.pend = some c ∧ (statusWord t).getLsbD 0 = true ∧
      t = { s with pend := some c, latencyLeft := t.latencyLeft, issued := s.issued + 1, input := rest }

/-- A host that waits for a pending command sees it complete, and reaches the same state (or the same fault) whatever the
latency is: `n` polls, then the engine's step (70_reset_and_hazards.md R255, R257, R263). `latencyLeft` is the model's
field for the open CMD_LATENCY (log entry 2). -/
def Obligations.LatencyDoesNotChangeTheOutcome : Prop :=
  ∀ (s : State) (c : Word) (rest : List HostEvent) (n : Nat), s.pend = some c → s.input = .waitReady :: rest →
    core.run (n + 1) { s with latencyLeft := n } = engineStep c { s with latencyLeft := 0 }

/-! ## Bit packer (40_bit_packer.md) -/

/-- SETBIT completes for every position inside the frame: its bit takes OPA[0], every other frame bit and every byte
without that bit is kept, RESULT is kept (40_bit_packer.md R121, R122). -/
def Obligations.SetBitCompletes : Prop :=
  ∀ (s : State) (p : Nat), s.attach = true → p < 8 * flen s →
    ∃ t, exec (.setBit p) s = .next t ∧ getBit t.frame p = s.opa.getLsbD 0 ∧ KeptOutside s.frame t.frame p 1 ∧
      t = { s with frame := t.frame, asmState := stateAfterWrite s, cmdErr := false, invalid := false }

/-- SETVALUE with a width above 0 (both rows) completes for every field inside the frame: the field holds OPA's low bits,
everything else of FRAME is kept, RESULT is the last position (40_bit_packer.md R124, R126). -/
def Obligations.SetValueCompletes : Prop :=
  (∀ (s : State) (p w : Nat), s.attach = true → 0 < w → w < 32 → p + w ≤ 8 * flen s →
    ∃ t, exec (.setValue p w) s = .next t ∧ FieldHolds t.frame p w s.opa.toNat ∧ WroteField s t p w) ∧
    ∀ (s : State) (p : Nat), s.attach = true → p + 32 ≤ 8 * flen s →
      ∃ t, exec (.setValue32 p) s = .next t ∧ FieldHolds t.frame p 32 s.opa.toNat ∧ WroteField s t p 32

/-- The read-back law (40_bit_packer.md R129): after SETVALUE p, w the `w` bits from `p`, read as a number, are OPA mod
2^w, and every frame bit outside them is unchanged. -/
def Obligations.SetValueReadsBack : Prop :=
  ∀ (s : State) (p w : Nat) (i : Instr), s.attach = true → 1 ≤ w → w ≤ 32 → p + w ≤ 8 * flen s →
    (i = if w = 32 then .setValue32 p else .setValue p w) →
    ∃ t, exec i s = .next t ∧ fieldValue t.frame p w = s.opa.toNat % 2 ^ w ∧
      ∀ q, q < p ∨ p + w ≤ q → getBit t.frame q = getBit s.frame q

/-- SETVALUE with width 0 (40_bit_packer.md R127): at every position it completes, writes no frame bit, is no frame write,
and RESULT takes `zext_32(trunc_16(p - 1))`, 0x0000FFFF when p = 0, with INVALID = 0. -/
def Obligations.SetValueOfWidthZeroIsNoOp : Prop :=
  ∀ (s : State) (p : Nat), s.attach = true →
    exec (.setValue p 0) s =
      .next { s with
        result := if p = 0 then 0x0000FFFF else BitVec.ofNat 32 ((p - 1) % 2 ^ 16), cmdErr := false, invalid := false }

/-! ## Checksum engine (41_checksum_engine.md) -/

/-- CALC (both rows) completes for every span inside the frame with a non-negative length: RESULT is CHK of the right-aligned
domain with POLY's low W bits, everything else but the two outcome bits is kept (41_checksum_engine.md R143, R146). -/
def Obligations.CalcCompletes : Prop :=
  ∀ (s : State) (ptr L : Nat), s.attach = true → s.opa.toInt = L → ptr + (L + 7) / 8 ≤ flen s →
    exec (.calc16 ptr) s =
        .next { s with
          result := (chk s.frame ptr L (s.poly.setWidth 16)).setWidth 32, cmdErr := false, invalid := false } ∧
      exec (.calc32 ptr) s =
        .next { s with result := chk s.frame ptr L s.poly, cmdErr := false, invalid := false }

/-- The closed form (41_checksum_engine.md R144): with `M(x)` the sum of `b_k * x^(L-1-k)` over GF(2), bit `i` of CHK is the
coefficient of `x^i` in `(M(x) * x^W) mod G(x)`, `G(x) = x^W + sum P[i]*x^i`; for `L = 0` the result is 0. -/
def Obligations.ChkIsThePolynomialRemainder : Prop :=
  (∀ (m : Memory) (ptr L W : Nat) (P : BitVec W) (M G : Polynomial (ZMod 2)), W = 16 ∨ W = 32 →
    (M = ∑ k ∈ Finset.range L,
      if getBit m (8 * ptr + (8 * ((L + 7) / 8) - L) + k) = true then Polynomial.X ^ (L - 1 - k) else 0) →
    (G = Polynomial.X ^ W + ∑ j ∈ Finset.range W, if P.getLsbD j = true then Polynomial.X ^ j else 0) →
    ∀ i, i < W → ((Polynomial.modByMonic (M * Polynomial.X ^ W) G).coeff i = 1 ↔ (chk m ptr L P).getLsbD i = true)) ∧
    ∀ (m : Memory) (ptr W : Nat) (P : BitVec W), chk m ptr 0 P = 0

/-- The byte-serial form (41_checksum_engine.md R145) equals the bit-serial one: over any chunks of 1 to 8 bits; and CHK of a
span equals CHK of its whole bytes after clearing the `lead` bits before it. -/
def Obligations.ByteSerialFormAgrees : Prop :=
  (∀ (W : Nat) (P : BitVec W) (chunks : List (List Bool)), W = 16 ∨ W = 32 →
    (∀ chunk ∈ chunks, 1 ≤ chunk.length ∧ chunk.length ≤ 8) → chkChunks P chunks = chkBits P chunks.flatten) ∧
    ∀ (m m' : Memory) (ptr L W : Nat) (P : BitVec W), W = 16 ∨ W = 32 →
      (∀ q, 8 * ptr ≤ q → q < 8 * ptr + (8 * ((L + 7) / 8) - L) → getBit m' q = false) →
      (∀ q, 8 * ptr + (8 * ((L + 7) / 8) - L) ≤ q → getBit m' q = getBit m q) →
      chk m ptr L P = chk m' ptr (8 * ((L + 7) / 8)) P

/-- CHK is linear over GF(2) in the message bits, reads nothing outside its domain, and with `P = 0` is 0
(41_checksum_engine.md R148). -/
def Obligations.ChkIsLinearInItsDomain : Prop :=
  (∀ (m m' e : Memory) (ptr L W : Nat) (P : BitVec W), W = 16 ∨ W = 32 →
    (∀ k, k < L → getBit m' (8 * ptr + (8 * ((L + 7) / 8) - L) + k) =
      (getBit m (8 * ptr + (8 * ((L + 7) / 8) - L) + k) ^^ getBit e (8 * ptr + (8 * ((L + 7) / 8) - L) + k))) →
    chk m' ptr L P = chk m ptr L P ^^^ chk e ptr L P) ∧
    (∀ (m m' : Memory) (ptr L W : Nat) (P : BitVec W),
      (∀ k, k < L → getBit m' (8 * ptr + (8 * ((L + 7) / 8) - L) + k) = getBit m (8 * ptr + (8 * ((L + 7) / 8) - L) + k)) →
      chk m' ptr L P = chk m ptr L P) ∧
    ∀ (m : Memory) (ptr L W : Nat), chk m ptr L (0 : BitVec W) = 0

/-- With `P` not 0, changing exactly one bit of the domain changes the checksum (41_checksum_engine.md R148: "changing any
single bit within `lengthBit` changes the result"). -/
def Obligations.SingleBitChangeIsDetected : Prop :=
  ∀ (m m' : Memory) (ptr L W n : Nat) (P : BitVec W), W = 16 ∨ W = 32 → P ≠ 0 → n < L →
    (∀ k, k < L → (getBit m' (8 * ptr + (8 * ((L + 7) / 8) - L) + k) ≠ getBit m (8 * ptr + (8 * ((L + 7) / 8) - L) + k) ↔
      k = n)) →
    chk m' ptr L P ≠ chk m ptr L P

/-! ## Field encoders (42_field_encoder.md) -/

/-- SETACQ (both forms) completes: OPA's low three bits at the start position, which in the `.T` form is 16 in P and 20 in E
(42_field_encoder.md R162, R163). -/
def Obligations.SetAcqCompletes : Prop :=
  ∀ s : State, s.attach = true →
    (∀ p, p + 3 ≤ 8 * flen s →
      ∃ t, exec (.setAcq p) s = .next t ∧ FieldHolds t.frame p 3 s.opa.toNat ∧ WroteField s t p 3) ∧
    (s.actVariant = .p → ∃ t, exec .setAcqT s = .next t ∧ FieldHolds t.frame 16 3 s.opa.toNat ∧ WroteField s t 16 3) ∧
    (s.actVariant = .e → ∃ t, exec .setAcqT s = .next t ∧ FieldHolds t.frame 20 3 s.opa.toNat ∧ WroteField s t 20 3)

/-- SETDATE (both forms) completes: day, hour and minute in 5, 5 and 6 consecutive bits, from bit 19 in P and 23 in E in the
`.T` form (42_field_encoder.md R164). -/
def Obligations.SetDateCompletes : Prop :=
  ∀ s : State, s.attach = true →
    (∀ p, p + 16 ≤ 8 * flen s →
      ∃ t, exec (.setDate p) s = .next t ∧ FieldHolds t.frame p 5 s.opa.toNat ∧
        FieldHolds t.frame (p + 5) 5 s.opb.toNat ∧ FieldHolds t.frame (p + 10) 6 s.opc.toNat ∧ WroteField s t p 16) ∧
    ∀ p, ((s.actVariant = .p ∧ p = 19) ∨ (s.actVariant = .e ∧ p = 23)) →
      ∃ t, exec .setDateT s = .next t ∧ FieldHolds t.frame p 5 s.opa.toNat ∧
        FieldHolds t.frame (p + 5) 5 s.opb.toNat ∧ FieldHolds t.frame (p + 10) 6 s.opc.toNat ∧ WroteField s t p 16

/-- SETLOC (both forms) completes: the longitude, latitude and altitude codes of the signed operands in 22, 21 and 10
consecutive bits, from bit 35 in P and 39 in E in the `.T` form (42_field_encoder.md R168; the codes are R165's and
R166's). -/
def Obligations.SetLocCompletes : Prop :=
  ∀ s : State, s.attach = true →
    (∀ p, p + 53 ≤ 8 * flen s →
      ∃ t, exec (.setLoc p) s = .next t ∧ FieldHolds t.frame p 22 (lonCode s.opa.toInt) ∧
        FieldHolds t.frame (p + 22) 21 (latCode s.opb.toInt) ∧ FieldHolds t.frame (p + 43) 10 (altCode s.opc.toInt) ∧
        WroteField s t p 53) ∧
    ∀ p, ((s.actVariant = .p ∧ p = 35) ∨ (s.actVariant = .e ∧ p = 39)) →
      ∃ t, exec .setLocT s = .next t ∧ FieldHolds t.frame p 22 (lonCode s.opa.toInt) ∧
        FieldHolds t.frame (p + 22) 21 (latCode s.opb.toInt) ∧ FieldHolds t.frame (p + 43) 10 (altCode s.opc.toInt) ∧
        WroteField s t p 53

/-- The longitude and latitude codes (42_field_encoder.md R165), bit by bit and for every integer: the magnitude's low bits,
with the sign joined to the top bit. -/
def Obligations.LocationCodesAreSignMagnitude : Prop :=
  (∀ (lon : Int) (i : Nat),
    (lonCode lon).testBit i = (decide (i < 22) && (lon.natAbs.testBit i || (decide (i = 21) && decide (lon < 0))))) ∧
    ∀ (lat : Int) (i : Nat),
      (latCode lat).testBit i = (decide (i < 21) && (lat.natAbs.testBit i || (decide (i = 20) && decide (lat < 0))))

/-- The altitude code (42_field_encoder.md R166): `abs(alt + 500) div 10` in 10 bits, and the same code when the absolute
value is taken after a division that truncates toward zero. -/
def Obligations.AltitudeCodeTruncates : Prop :=
  ∀ alt : Int, (altCode alt : Int) = |alt + 500| / 10 % 1024 ∧ altCode alt = ((alt + 500).tdiv 10).natAbs % 1024

/-- SETUSER (both forms, every variant) completes: `min(len, cap)` payload bytes, zeros up to the capacity, the half-byte
tail of variant E, nothing else (42_field_encoder.md R176, R177, R178, R180). -/
def Obligations.SetUserCompletes : Prop :=
  ∀ (s : State) (p : Nat) (i : Instr) (cap : Nat) (nib : Bool), s.attach = true →
    (cap, nib) = specCapacity s.actVariant s.actBch →
    ((i = .setUser p ∧ p + userBits s ≤ 8 * flen s) ∨
      (i = .setUserT ∧ ((s.actVariant = .p ∧ p = 88) ∨ (s.actVariant = .e ∧ p = 92) ∨ (s.actVariant = .u ∧ p = 16)))) →
    ∃ t, exec i s = .next t ∧
      (∀ k, k < cap → FieldHolds t.frame (p + 8 * k) 8 (if k < s.opa.toNat then (readByte s.userBuf k).toNat else 0)) ∧
      (nib = true → FieldHolds t.frame (p + 8 * cap) 4
        (if s.opa.toNat = cap + 1 then (readByte s.userBuf cap).toNat / 16 else 0)) ∧
      WroteField s t p (userBits s)

/-- SETUSER reads USERBUF[i] only for `i < min(len, cap)` and, with a half-byte tail and `len = cap + 1`, USERBUF[cap]: two
runs whose USERBUFs agree there answer alike; no byte is read when `len = 0` (42_field_encoder.md R179). -/
def Obligations.SetUserReadsOnlyItsPayload : Prop :=
  (∀ (s : State) (b : Memory) (p cap : Nat) (nib : Bool), (cap, nib) = specCapacity s.actVariant s.actBch →
    (∀ k, k < min s.opa.toNat cap → readByte b k = readByte s.userBuf k) →
    (nib = true → s.opa.toNat = cap + 1 → readByte b cap = readByte s.userBuf cap) →
    exec (.setUser p) { s with userBuf := b } = mapNext (fun t => { t with userBuf := b }) (exec (.setUser p) s) ∧
      exec .setUserT { s with userBuf := b } = mapNext (fun t => { t with userBuf := b }) (exec .setUserT s)) ∧
    ∀ (s : State) (b : Memory) (p : Nat), s.opa = 0 →
      exec (.setUser p) { s with userBuf := b } = mapNext (fun t => { t with userBuf := b }) (exec (.setUser p) s) ∧
        exec .setUserT { s with userBuf := b } = mapNext (fun t => { t with userBuf := b }) (exec .setUserT s)

/-! ## Frame assembler (43_frame_assembler.md) -/

/-- CLEAN completes: every byte of FRAME reads 0, the configuration is latched, STATE is Empty, FLEN follows, and nothing
else changes (43_frame_assembler.md R200, R201). -/
def Obligations.CleanConstructsAnEmptyFrame : Prop :=
  ∀ s : State, s.attach = true →
    ∃ t, exec .clean s = .next t ∧ (∀ a, readByte t.frame a = 0) ∧
      flen t = (if s.cfgVariant = .u ∨ s.cfgBchEn = true then 31 else 27) ∧
      t = { s with
        frame := t.frame, actVariant := s.cfgVariant, actBch := s.cfgBchEn, asmState := .empty, cmdErr := false,
        invalid := false }

/-- SETCRC16 (both forms) completes: the 16 bits at the start position hold the CRC16 of the bits from CrcOff + 16 to the end
of the frame as it was, RESULT holds it, STATE is Sealed, and nothing else changes (43_frame_assembler.md R203, R204). -/
def Obligations.SetCrc16Completes : Prop :=
  ∀ (s : State) (p : Nat) (i : Instr) (crc : BitVec 16), s.attach = true →
    crc = chk s.frame 2 (8 * flen s - (specCrcOff s.actVariant + 16)) (0x1021 : BitVec 16) →
    ((i = .setCrc16 p ∧ p + 16 ≤ 8 * flen s) ∨ (i = .setCrc16T ∧ p = specCrcOff s.actVariant)) →
    ∃ t, exec i s = .next t ∧ FieldHolds t.frame p 16 crc.toNat ∧ KeptOutside s.frame t.frame p 16 ∧
      t = { s with
        frame := t.frame, asmState := .sealed, result := crc.setWidth 32, cmdErr := false, invalid := false }

/-- SETCRC16BCH32 (both forms) completes: first the CRC16 at CrcOff over the data up to `8*FLEN - 32`, then the BCH32 of the
frame with that CRC over all bits up to there, at the start position; RESULT holds the BCH32, STATE is Sealed, and
nothing else changes (43_frame_assembler.md R204, R206, R207). -/
def Obligations.SetCrc16Bch32Completes : Prop :=
  ∀ (s : State) (b : Nat) (i : Instr) (crc : BitVec 16), s.attach = true →
    crc = chk s.frame 2 (8 * flen s - 32 - (specCrcOff s.actVariant + 16)) (0x1021 : BitVec 16) →
    ((i = .setCrc16Bch32 b ∧ b + 32 ≤ 8 * flen s) ∨ (i = .setCrc16Bch32T ∧ s.actBch = true ∧ b = 216)) →
    ∃ (t : State) (m : Memory) (bch : BitVec 32), exec i s = .next t ∧
      FieldHolds m (specCrcOff s.actVariant) 16 crc.toNat ∧ KeptOutside s.frame m (specCrcOff s.actVariant) 16 ∧
      bch = chk m 0 (8 * flen s - 32) (0xEE5B42FD : BitVec 32) ∧
      FieldHolds t.frame b 32 bch.toNat ∧ KeptOutside m t.frame b 32 ∧
      t = { s with frame := t.frame, asmState := .sealed, result := bch, cmdErr := false, invalid := false }

/-- Right after a setter at the canonical positions completes, the checksum fields hold the checksums of the frame's own
content. SETCRC16 (`.T`, or positional at CrcOff): the CRC16 field is the CRC16 of its domain in the resulting frame.
SETCRC16BCH32 (`.T`, or positional at `8*FLEN - 32`): the CRC16 field is the CRC16 of its domain, the BCH32 field the
BCH32 of all bits before it, and the BCH32 of the whole frame is 0 (43_frame_assembler.md R203, R204, R206, R207, R211;
the last from 41_checksum_engine.md R144). -/
def Obligations.SealedFrameChecks : Prop :=
  (∀ (s : State) (i : Instr), s.attach = true → (i = .setCrc16T ∨ i = .setCrc16 (specCrcOff s.actVariant)) →
    ∃ t, exec i s = .next t ∧
      fieldValue t.frame (specCrcOff s.actVariant) 16 =
        (chk t.frame 2 (8 * flen s - (specCrcOff s.actVariant + 16)) (0x1021 : BitVec 16)).toNat) ∧
    ∀ (s : State) (i : Instr) (b : Nat), s.attach = true → b + 32 = 8 * flen s →
      ((i = .setCrc16Bch32T ∧ s.actBch = true) ∨ i = .setCrc16Bch32 b) →
      ∃ t, exec i s = .next t ∧
        fieldValue t.frame (specCrcOff s.actVariant) 16 =
          (chk t.frame 2 (b - (specCrcOff s.actVariant + 16)) (0x1021 : BitVec 16)).toNat ∧
        fieldValue t.frame b 32 = (chk t.frame 0 b (0xEE5B42FD : BitVec 32)).toNat ∧
        chk t.frame 0 (8 * flen s) (0xEE5B42FD : BitVec 32) = 0

/-- Re-sealing at the canonical positions rewrites the same values: a setter issued again on the state it sealed, in its
`.T` form or its positional form at the canonical position, answers that very state (43_frame_assembler.md R208). The
frame is taken canonical, which `InvariantIsKept` shows every step keeps. -/
def Obligations.ResealIsIdempotent : Prop :=
  (∀ (s : State) (i j : Instr), s.attach = true → s.frame.wf = true →
    (i = .setCrc16T ∨ i = .setCrc16 (specCrcOff s.actVariant)) →
    (j = .setCrc16T ∨ j = .setCrc16 (specCrcOff s.actVariant)) →
    ∃ t, exec i s = .next t ∧ exec j t = .next t) ∧
    ∀ (s : State) (i j : Instr) (b : Nat), s.attach = true → s.frame.wf = true → b + 32 = 8 * flen s →
      ((i = .setCrc16Bch32T ∧ s.actBch = true) ∨ i = .setCrc16Bch32 b) →
      ((j = .setCrc16Bch32T ∧ s.actBch = true) ∨ j = .setCrc16Bch32 b) →
      ∃ t, exec i s = .next t ∧ exec j t = .next t

/-- In every table the fields, listed by offset, follow one another without gap or overlap from bit 0 to bit `8*FLEN - 1`
(43_frame_assembler.md R192). -/
def Obligations.TablesTileTheFrame : Prop :=
  ∀ (v : Variant) (b : Bool), Contiguous 0 (entries (layout v b)) (8 * (layout v b).frameLength)

/-- Frame lengths and capacities as the rules' tables give them (43_frame_assembler.md R191, R193). -/
def Obligations.FrameLengthsAndCapacities : Prop :=
  (∀ (v : Variant) (b : Bool), frameLength v b = if v = .u ∨ b = true then 31 else 27) ∧
    ∀ (v : Variant) (b : Bool), (capBytes (layout v b), hasNibble (layout v b)) = specCapacity v b ∧
      (layout v b).userData.width = 8 * capBytes (layout v b) + 4 * (hasNibble (layout v b)).toNat

/-- The CRC16 domain lengths of 43_frame_assembler.md R204's table, with `dataEnd` = 8*FLEN (SETCRC16) and 8*FLEN - 32
(SETCRC16BCH32), and every domain lies inside its frame (60_exceptions.md R228). -/
def Obligations.ChecksumDomains : Prop :=
  (∀ s : State, (crcDomainLength s (8 * flen s), crcDomainLength s (8 * flen s - 32), 8 * flen s - 32) =
    match s.actVariant, s.actBch with
    | .p, false => (200, 168, 184)
    | .p, true => (232, 200, 216)
    | .e, false => (196, 164, 184)
    | .e, true => (228, 196, 216)
    | .u, _ => (232, 200, 216)) ∧
    ∀ s : State, 2 + ceil8 (crcDomainLength s (8 * flen s)) ≤ flen s ∧
      2 + ceil8 (crcDomainLength s (8 * flen s - 32)) ≤ flen s ∧ ceil8 (8 * flen s - 32) ≤ flen s

/-! ## Outcomes (60_exceptions.md) -/

/-- A command with ATTACH = 1 whose word decodes is UNDEFINED exactly on the inequality of its row of 60_exceptions.md R228,
and otherwise answers a next state; with ATTACH = 0 none is UNDEFINED; no command is ever refused. -/
def Obligations.UndefinedExactlyOnLayoutViolations : Prop :=
  ∀ (i : Instr) (s : State),
    ((∃ f, exec i s = .fault f) ↔ s.attach = true ∧ violatesLayout i s) ∧
      ((∃ t, exec i s = .next t) ↔ ¬ (s.attach = true ∧ violatesLayout i s))

/-- The invalid-handle outcome (60_exceptions.md R224): every command that decodes, with ATTACH = 0, sets INVALID and clears
CMDERR, writes the sentinel where it returns a position, and changes nothing else. -/
def Obligations.InvalidHandleOutcome : Prop :=
  ∀ (i : Instr) (s : State), s.attach = false → lacksField i s = false →
    exec i s =
      .next { s with
        invalid := true, cmdErr := false, result := if positionReturning i = true then 0x0000FFFF else s.result }

/-- The command-error outcome (60_exceptions.md R222): an illegal word, or a `.T` form whose field the active table lacks,
sets CMDERR and clears INVALID and changes nothing else, whatever ATTACH is. -/
def Obligations.CommandErrorOutcome : Prop :=
  (∀ (c : Word) (why : Reject) (s : State), decode c = .rejected why →
    completeCommand c s = .next { s with cmdErr := true, invalid := false }) ∧
    ∀ (i : Instr) (s : State), lacksField i s = true → exec i s = .next { s with cmdErr := true, invalid := false }

/-- No command writes an operand register, CFG or USERBUF (60_exceptions.md R221), and none touches PEND. -/
def Obligations.CommandsWriteNoHostRegister : Prop :=
  ∀ (i : Instr) (s t : State), exec i s = .next t →
    t = { s with
      frame := t.frame, asmState := t.asmState, result := t.result, cmdErr := t.cmdErr, invalid := t.invalid,
      actVariant := t.actVariant, actBch := t.actBch }

/-- Every command but CLEAN leaves the storage outside the frame, FRAME[FLEN..], as it was, and leaves the active
configuration (60_exceptions.md R228, 10_state.md R35, R37). -/
def Obligations.CommandsStayInsideTheFrame : Prop :=
  ∀ (i : Instr) (s t : State), i ≠ .clean → exec i s = .next t →
    (∀ a, flen s ≤ a → readByte t.frame a = readByte s.frame a) ∧ t.actVariant = s.actVariant ∧ t.actBch = s.actBch

/-- The assembler state machine (43_frame_assembler.md R197 to R199): a normal completion of a frame-writing command takes
Empty to Populated and nothing else; a setter seals; CLEAN empties; every other completion, and every error outcome,
keeps STATE. -/
def Obligations.AssemblerStateMachine : Prop :=
  ∀ (i : Instr) (s t : State), exec i s = .next t →
    t.asmState =
      if s.attach = false ∨ lacksField i s = true then s.asmState
      else if i = .clean then .empty
      else if isSetter i = true then .sealed
      else if writesFrame i = true then stateAfterWrite s
      else s.asmState

/-- Every command other than CLEAN uses the active configuration, never CFG.VARIANT or CFG.BCH_EN (10_state.md R37): two runs
that differ only there answer alike. -/
def Obligations.CommandsIgnoreUnlatchedConfiguration : Prop :=
  ∀ (i : Instr) (s : State) (v : Variant) (b : Bool), i ≠ .clean →
    exec i { s with cfgVariant := v, cfgBchEn := b } =
      mapNext (fun t => { t with cfgVariant := v, cfgBchEn := b }) (exec i s)

/-- Which command reads which operand (30_encoding.md R99): OPB and OPC reach only SETDATE and SETLOC, POLY only CALC, USERBUF
only SETUSER, and CLEAN and the setters read no operand register. -/
def Obligations.CommandsReadOnlyTheirOperands : Prop :=
  (∀ (i : Instr) (s : State) (y z : Word), readsOpbOpc i = false →
    exec i { s with opb := y, opc := z } = mapNext (fun t => { t with opb := y, opc := z }) (exec i s)) ∧
    (∀ (i : Instr) (s : State) (q : Word), readsPoly i = false →
      exec i { s with poly := q } = mapNext (fun t => { t with poly := q }) (exec i s)) ∧
    (∀ (i : Instr) (s : State) (b : Memory), readsUserBuf i = false →
      exec i { s with userBuf := b } = mapNext (fun t => { t with userBuf := b }) (exec i s)) ∧
    ∀ (i : Instr) (s : State) (x : Word), readsNoOperand i = true →
      exec i { s with opa := x } = mapNext (fun t => { t with opa := x }) (exec i s)

/-! ## Reset, host accesses and the whole machine -/

/-- The reset event, at any of the host's turns, with or without a command pending, puts every piece of the block's state to
its reset value (70_reset_and_hazards.md R250). What the host has still to do, has read and how many commands it has
issued are the model's own fields and stay (log entry 14). -/
def Obligations.ResetEventResets : Prop :=
  ∀ (s : State) (rest : List HostEvent), s.input = .reset :: rest → (s.pend = none ∨ 0 < s.latencyLeft) →
    step s = .next { State.reset with input := rest, issued := s.issued, reads := s.reads }

/-- After reset (70_reset_and_hazards.md R252, 10_state.md R39): every register reads its reset value, every byte of both
buffers 0, and every decodable command ends with the invalid-handle outcome. -/
def Obligations.StateAfterReset : Prop :=
  (∀ r : HostReg, readReg r State.reset = if r = .flenr then 0x0000001B else 0x00000000) ∧
    (∀ a, readByte State.reset.frame a = 0 ∧ readByte State.reset.userBuf a = 0) ∧
    ∀ i : Instr, lacksField i State.reset = false →
      ∃ t, exec i State.reset = .next t ∧ t.invalid = true ∧ t.cmdErr = false ∧ t.frame = State.reset.frame

/-- While a command is pending, a host access other than a STATUS read is UNDEFINED, and a STATUS read returns BUSY = 1 with
the other fields as they were and changes nothing of the block (70_reset_and_hazards.md R256). That the host still has
turns is the premise `0 < s.latencyLeft`, the model's field (log entry 2). -/
def Obligations.OnlyStatusMayBeReadWhileBusy : Prop :=
  ∀ (s : State) (offset : BitVec 8) (rest : List HostEvent), s.pend ≠ none → 0 < s.latencyLeft → offset.toNat % 4 = 0 →
    (∀ v, s.input = .write offset 32 v :: rest → step s = .fault .accessWhileBusy) ∧
    (offset ≠ 0x18 → s.input = .read offset 32 :: rest → step s = .fault .accessWhileBusy) ∧
    (s.input = .read 0x18 32 :: rest →
      ∃ w, step s = .next { s with input := rest, reads := w :: s.reads, latencyLeft := s.latencyLeft - 1 } ∧
        w.toNat = specStatus 1 s)

/-- A host access of another width than 32 bits, or at an offset that is no multiple of 4, is UNDEFINED
(20_memory.md R65), with or without a command pending (which of U4 and U5 is named is log entry 9). -/
def Obligations.OtherAccessesAreUndefined : Prop :=
  ∀ (s : State) (offset : BitVec 8) (bits : Nat) (v : Word) (rest : List HostEvent),
    (s.pend = none ∨ 0 < s.latencyLeft) → (bits ≠ 32 ∨ offset.toNat % 4 ≠ 0) →
    (s.input = .read offset bits :: rest → step s = .fault .badHostAccess) ∧
      (s.input = .write offset bits v :: rest → step s = .fault .badHostAccess)

/-- What a read of an idle block returns at every offset, and that it changes nothing (20_memory.md R60, R61, R66, 10_state.md
R21 to R34): the state is as before but for the host's list of values read and its events to come, the model's own
fields (log entries 1 and 6). -/
def Obligations.ReadsHaveNoSideEffect : Prop :=
  ∀ (s : State) (offset : BitVec 8) (rest : List HostEvent), s.pend = none → offset.toNat % 4 = 0 →
    s.input = .read offset 32 :: rest →
    ∃ w, step s = .next { s with input := rest, reads := w :: s.reads } ∧
      (offset = 0x04 → w = s.opa) ∧ (offset = 0x08 → w = s.opb) ∧ (offset = 0x0C → w = s.opc) ∧
      (offset = 0x10 → w = s.poly) ∧ (offset = 0x14 → w.toNat = specCfg s) ∧
      (offset = 0x18 → w.toNat = specStatus 0 s) ∧ (offset = 0x1C → w = s.result) ∧
      (offset = 0x20 → w.toNat = if s.actVariant = .u ∨ s.actBch = true then 31 else 27) ∧
      (∀ k, k < 8 → offset.toNat = 0x80 + 4 * k → HoldsWindow s.frame k w) ∧
      (∀ k, k < 8 → offset.toNat = 0xC0 + 4 * k → HoldsWindow s.userBuf k w) ∧
      (offset = 0x00 ∨ (0x24 ≤ offset.toNat ∧ offset.toNat < 0x80) ∨ (0xA0 ≤ offset.toNat ∧ offset.toNat < 0xC0) ∨
        0xE0 ≤ offset.toNat → w = 0)

/-- OPA, OPB, OPC and POLY return the last value written, all 32 bits, and a write changes nothing else
(10_state.md R22 to R25). -/
def Obligations.OperandRegistersReadBack : Prop :=
  ∀ (s : State) (v : Word) (rest : List HostEvent), s.pend = none →
    (s.input = .write 0x04 32 v :: .read 0x04 32 :: rest →
      core.run 2 s = .next { s with opa := v, input := rest, reads := v :: s.reads }) ∧
    (s.input = .write 0x08 32 v :: .read 0x08 32 :: rest →
      core.run 2 s = .next { s with opb := v, input := rest, reads := v :: s.reads }) ∧
    (s.input = .write 0x0C 32 v :: .read 0x0C 32 :: rest →
      core.run 2 s = .next { s with opc := v, input := rest, reads := v :: s.reads }) ∧
    (s.input = .write 0x10 32 v :: .read 0x10 32 :: rest →
      core.run 2 s = .next { s with poly := v, input := rest, reads := v :: s.reads })

/-- CFG written, then read (10_state.md R26 to R29): the write stores ATTACH, BCH_EN and a VARIANT of 0, 1 or 2 (3 leaves the
field); the read returns ATTACH in bit 0, VARIANT in bits 2:1, BCH_EN in bit 3 and zeros above; nothing else of the block
changes, so the active configuration does not. -/
def Obligations.CfgIsWriteAnyReadLegal : Prop :=
  ∀ (s : State) (v : Word) (rest : List HostEvent), s.pend = none →
    s.input = .write 0x14 32 v :: .read 0x14 32 :: rest →
    ∃ (t : State) (w : Word), core.run 2 s = .next t ∧
      w.getLsbD 0 = v.getLsbD 0 ∧ w.getLsbD 3 = v.getLsbD 3 ∧
      w.toNat / 2 % 4 = (if v.toNat / 2 % 4 = 3 then specVariantCode s.cfgVariant else v.toNat / 2 % 4) ∧
      w.toNat < 16 ∧ t.attach = v.getLsbD 0 ∧ t.cfgBchEn = v.getLsbD 3 ∧ w.toNat = specCfg t ∧
      t = { s with
        attach := t.attach, cfgVariant := t.cfgVariant, cfgBchEn := t.cfgBchEn, input := rest, reads := w :: s.reads }

/-- CMD and every reserved offset read 0; writes to STATUS, RESULT, FLENR and the reserved offsets are ignored
(10_state.md R21, R30, R33, R34; 20_memory.md R60, R66). -/
def Obligations.ReadOnlyAndReservedOffsets : Prop :=
  ∀ (s : State) (offset : BitVec 8) (rest : List HostEvent), s.pend = none → offset.toNat % 4 = 0 →
    ((offset = 0x00 ∨ (0x24 ≤ offset.toNat ∧ offset.toNat < 0x80) ∨ (0xA0 ≤ offset.toNat ∧ offset.toNat < 0xC0) ∨
        0xE0 ≤ offset.toNat) →
      s.input = .read offset 32 :: rest → step s = .next { s with input := rest, reads := 0 :: s.reads }) ∧
    ∀ v, ((0x18 ≤ offset.toNat ∧ offset.toNat < 0x80) ∨ (0xA0 ≤ offset.toNat ∧ offset.toNat < 0xC0) ∨
        0xE0 ≤ offset.toNat) →
      s.input = .write offset 32 v :: rest → step s = .next { s with input := rest }

/-- A write of FRAME window word `k` puts the word's four bytes, most significant first, into FRAME[4k..4k+3], changes no
other byte, is a frame write for STATE, and a read of the word gives the value back; a USERBUF window write does the
same on USERBUF and changes no other state (20_memory.md R61, R62, R63). -/
def Obligations.WindowWritesAreBigEndian : Prop :=
  ∀ (s : State) (k : Nat) (v : Word) (rest : List HostEvent), s.pend = none → k < 8 →
    (s.input = .write (BitVec.ofNat 8 (0x80 + 4 * k)) 32 v :: rest →
      ∃ t, step s = .next t ∧
        (∀ j, j < 4 → (readByte t.frame (4 * k + j)).toNat = v.toNat / 2 ^ (8 * (3 - j)) % 256) ∧
        (∀ a, a < 4 * k ∨ 4 * k + 4 ≤ a → readByte t.frame a = readByte s.frame a) ∧ readReg (.frame k) t = v ∧
        t = { s with frame := t.frame, asmState := stateAfterWrite s, input := rest }) ∧
    (s.input = .write (BitVec.ofNat 8 (0xC0 + 4 * k)) 32 v :: rest →
      ∃ t, step s = .next t ∧
        (∀ j, j < 4 → (readByte t.userBuf (4 * k + j)).toNat = v.toNat / 2 ^ (8 * (3 - j)) % 256) ∧
        (∀ a, a < 4 * k ∨ 4 * k + 4 ≤ a → readByte t.userBuf a = readByte s.userBuf a) ∧ readReg (.userBuf k) t = v ∧
        t = { s with userBuf := t.userBuf, input := rest })

/-- The host reads the frame in wire order: frame bit `p` is bit `31 - (p mod 32)` of FRAME window word `p div 32`
(20_memory.md R61). -/
def Obligations.FrameWindowIsInWireOrder : Prop :=
  ∀ (s : State) (p : Nat), p < 256 → (readReg (.frame (p / 32)) s).getLsbD (31 - p % 32) = getBit s.frame p

/-- Only CLEAN and reset change the active configuration, over every step of the machine (10_state.md R37): where it changes,
either the step completed CLEAN with a frame attached and latched CFG, or the step took the platform's reset and the
configuration is P without BCH. -/
def Obligations.OnlyCleanOrResetChangesTheConfiguration : Prop :=
  ∀ s t : State, step s = .next t → (t.actVariant, t.actBch) ≠ (s.actVariant, s.actBch) →
    (s.pend = some 0x00000001 ∧ t.pend = none ∧ t.input = s.input ∧ s.attach = true ∧
      (t.actVariant, t.actBch) = (s.cfgVariant, s.cfgBchEn)) ∨
      ∃ rest, s.input = .reset :: rest ∧ t.input = rest ∧ (t.actVariant, t.actBch) = (.p, false)

/-- Over every step of the machine: a due engine step writes no register, no CFG and no USERBUF and takes no host event,
whatever the host's next event is (10_state.md R22 to R26, R36). A step that is no engine step and not a reset changes no
INVALID, CMDERR, RESULT or active configuration (R31, R34, R37), and with a command pending nothing at all of the block
(70_reset_and_hazards.md R256). When a step is the engine's is log entries 2 and 3. -/
def Obligations.HostAndEngineWriteTheirOwnState : Prop :=
  ∀ s t : State, step s = .next t →
    (s.pend ≠ none → (s.latencyLeft = 0 ∨ s.input = []) →
      t.opa = s.opa ∧ t.opb = s.opb ∧ t.opc = s.opc ∧ t.poly = s.poly ∧ t.attach = s.attach ∧
        t.cfgVariant = s.cfgVariant ∧ t.cfgBchEn = s.cfgBchEn ∧ t.userBuf = s.userBuf ∧ t.input = s.input ∧
        t.reads = s.reads ∧ t.pend = none) ∧
    ((∀ rest, s.input ≠ .reset :: rest) → s.pend = none →
      t.invalid = s.invalid ∧ t.cmdErr = s.cmdErr ∧ t.result = s.result ∧ t.actVariant = s.actVariant ∧
        t.actBch = s.actBch) ∧
    ((∀ rest, s.input ≠ .reset :: rest) → s.pend ≠ none → 0 < s.latencyLeft → s.input ≠ [] →
      t = { s with input := t.input, reads := t.reads, latencyLeft := s.latencyLeft - 1 })

/-- From any idle state, the host's NEWFRAME (30_encoding.md R104, 70_reset_and_hazards.md R253 steps 1 and 2) reaches, after
finitely many steps and whatever the latency, an idle block with an attached, all-zero, Empty frame of the chosen
configuration. The line takes the three variants only (log entry 21). -/
def Obligations.NewFrameReachesAnEmptyFrame : Prop :=
  ∀ (v : Variant) (b : Bool), ∃ events, expandLine (.newFrame v b) = some events ∧
    ∀ (s : State) (rest : List HostEvent), s.pend = none → s.input = events ++ rest →
    ∃ (n : Nat) (t : State), core.run n s = .next t ∧ t.pend = none ∧ t.input = rest ∧ t.attach = true ∧
      t.actVariant = v ∧ t.actBch = b ∧ t.asmState = .empty ∧ (∀ a, readByte t.frame a = 0) ∧ t.cmdErr = false ∧
      t.invalid = false ∧ t.userBuf = s.userBuf ∧ t.result = s.result

/-- Every step keeps the invariant: canonical buffers, never CMDERR and INVALID both 1 (60_exceptions.md R230), an Empty frame
all zero (43_frame_assembler.md R197), no latency without a pending command (log entry 2). -/
def Obligations.InvariantIsKept : Prop :=
  ∀ s t : State, Inv s → step s = .next t → Inv t

/-- The invariant holds after reset (70_reset_and_hazards.md R250). -/
def Obligations.InvariantHoldsAtReset : Prop := Inv State.reset

/-! ## Host programs (30_encoding.md R100, R104) -/

/-- The checksum pseudo-instructions (30_encoding.md R104): with a frame attached and a span inside it, CRC16, BCH32 and FCS32
`ptr, L` reach, after finitely many steps and whatever the latency, an idle block whose RESULT is the checksum of the
span with their generator. -/
def Obligations.ChecksumPseudoInstructionsReachTheirResult : Prop :=
  ∀ (s : State) (ptr : Nat) (L w : Word) (line : HostLine) (rest : List HostEvent), s.pend = none → s.attach = true →
    0 ≤ L.toInt → ptr + (L.toNat + 7) / 8 ≤ flen s →
    ((line = .crc16 ptr L ∧ w = (chk s.frame ptr L.toNat (0x1021 : BitVec 16)).setWidth 32) ∨
      (line = .bch32 ptr L ∧ w = chk s.frame ptr L.toNat (0xEE5B42FD : BitVec 32)) ∨
      (line = .fcs32 ptr L ∧ w = chk s.frame ptr L.toNat (0x04C11DB7 : BitVec 32))) →
    ∃ events, expandLine line = some events ∧ (s.input = events ++ rest →
      ∃ (n : Nat) (t : State), core.run n s = .next t ∧ t.pend = none ∧ t.input = rest ∧ t.result = w ∧
        t.frame = s.frame ∧ t.asmState = s.asmState ∧ t.cmdErr = false ∧ t.invalid = false)

/-- The host notation refuses what the encoder refuses. `CMD` and `DO` of a command with an operand outside its field expand
to nothing, and of any other command to the write of its word (and a WAIT); a `WR` or `RD` line is refused exactly where
it names no register and no window word 0..7. The expansions are 30_encoding.md R104's, and that a tool refuses an operand
outside its field is R100's. That a refused line expands to nothing, and that a `WR` or `RD` line is refused at all, is the
MODEL'S CHOICE (log entry 19, DEDUCED): no rule says so. -/
def Obligations.HostNotationRefusesWhatTheEncoderRefuses : Prop :=
  (∀ i : Instr, (i.wellFormed = false → expandLine (.cmd i) = none ∧ expandLine (.run i) = none) ∧
    (i.wellFormed = true →
      expandLine (.cmd i) = some [.write 0x00 32 (encode i)] ∧
        expandLine (.run i) = some [.write 0x00 32 (encode i), .waitReady])) ∧
    ∀ (r : HostReg) (v : Word) (e : Option Word),
      (expandLine (.wr r v) = none ↔ expandLine (.rd r e) = none) ∧
        (expandLine (.rd r e) = none ↔ r = .reserved ∨ ∃ k, 8 ≤ k ∧ (r = .frame k ∨ r = .userBuf k)) ∧
        ∀ o, expandLine (.rd r e) = some [.read o 32] → hostReg o.toNat = r
end

