-- ==== Sys2Proof/Laws/HostProgram.lean ====
section
/-! SUPPORT. What a line of a host program expands to, and when it is refused. -/

namespace Sys2Proof.Machine

@[simp] theorem andThen_some (x y : List HostEvent) : andThen (some x) (some y) = some (x ++ y) := rfl

@[simp] theorem andThen_none_left (b : Expansion) : andThen none b = none := rfl

@[simp] theorem andThen_none_right (a : Expansion) : andThen a none = none := by cases a <;> rfl

/-- A two-part expansion is refused exactly where one of its parts is. -/
theorem andThen_eq_none {a b : Expansion} : andThen a b = none ↔ a = none ∨ b = none := by
  cases a <;> cases b <;> simp

/-- The notation has no name for a reserved offset or a window word above 7. -/
theorem hostOffset_eq_none (r : HostReg) :
    hostOffset r = none ↔ r = .reserved ∨ ∃ k, 8 ≤ k ∧ (r = .frame k ∨ r = .userBuf k) := by
  cases r <;> simp [hostOffset]

/-- The name of an offset is what the register map has there (20_memory.md R60). -/
theorem hostReg_hostOffset {r : HostReg} {offset : BitVec 8} (h : hostOffset r = some offset) :
    hostReg offset.toNat = r := by
  have frame : ∀ k : Fin 8, hostReg (BitVec.ofNat 8 (0x80 + 4 * k.val)).toNat = .frame k.val := by decide
  have userBuf : ∀ k : Fin 8, hostReg (BitVec.ofNat 8 (0xC0 + 4 * k.val)).toNat = .userBuf k.val := by decide
  cases r with
  | frame k =>
    by_cases hk : k < 8
    · simp only [hostOffset, if_pos hk, Option.some.injEq] at h
      exact h ▸ frame ⟨k, hk⟩
    · simp [hostOffset, hk] at h
  | userBuf k =>
    by_cases hk : k < 8
    · simp only [hostOffset, if_pos hk, Option.some.injEq] at h
      exact h ▸ userBuf ⟨k, hk⟩
    · simp [hostOffset, hk] at h
  | reserved => cases h
  | _ =>
    simp only [hostOffset, Option.some.injEq] at h
    subst h
    rfl

/-- A command inside its fields expands to the write of its word. -/
theorem cmdEvents_wellFormed {i : Instr} (h : i.wellFormed = true) : cmdEvents i = some [.write 0x00 32 (encode i)] := by
  simp [cmdEvents, encodeChecked, h, wrEvents, hostOffset]

/-- A command with an operand outside its field is refused (30_encoding.md R100). -/
theorem cmdEvents_illFormed {i : Instr} (h : i.wellFormed = false) : cmdEvents i = none := by
  simp [cmdEvents, encodeChecked, h]

/-- A raw command word is written as it stands, legal or not (log entry 20). -/
theorem expandLine_cmdWord (w : Word) : expandLine (.cmdWord w) = some [.write 0x00 32 w] := rfl

theorem runEvents_wellFormed {i : Instr} (h : i.wellFormed = true) :
    runEvents i = some [.write 0x00 32 (encode i), .waitReady] := by
  simp [runEvents, cmdEvents_wellFormed h]

theorem runEvents_illFormed {i : Instr} (h : i.wellFormed = false) : runEvents i = none := by
  simp [runEvents, cmdEvents_illFormed h]

/-- The three checksum pseudo-instructions, inside their fields. -/
theorem calcEvents_wellFormed (poly L : Word) {i : Instr} (h : i.wellFormed = true) :
    calcEvents poly L i =
      some [.write 0x10 32 poly, .write 0x04 32 L, .write 0x00 32 (encode i), .waitReady] := by
  simp [calcEvents, wrEvents, hostOffset, runEvents_wellFormed h]

theorem expandLine_newFrame (v : Variant) (b : Bool) :
    expandLine (.newFrame v b) =
      some [.write 0x14 32 (newFrameCfg v b), .write 0x00 32 0x00000001, .waitReady] := by
  simp [expandLine, wrEvents, hostOffset, runEvents_wellFormed (i := .clean) rfl, encode, enc]

end Sys2Proof.Machine
end

