-- ==== Sys2Proof/Laws/Memory.lean ====
section
/-! SUPPORT. The laws of the buffers: a read after a write, what a write leaves alone, the canonical form that every
operation keeps, and that canonical buffers with equal bytes are equal. -/

namespace Sys2Proof.Machine

/-! ## Bytes -/

@[simp] theorem readByte_nil (a : Nat) : readByte [] a = 0 := rfl

theorem readByte_eraseByte (m : Memory) (a x : Nat) :
    readByte (eraseByte m a) x = if x = a then 0 else readByte m x := by
  induction m with
  | nil => simp [eraseByte]
  | cons c rest ih =>
    obtain ⟨b, u⟩ := c
    unfold eraseByte
    by_cases hb : b = a
    · subst hb
      rw [if_pos rfl, ih]
      by_cases hx : x = b <;> simp [readByte, hx]
    · rw [if_neg hb]
      by_cases hx : x = b
      · subst hx
        simp [readByte, hb]
      · simp [readByte, hx, ih]

theorem readByte_insertByte (m : Memory) (a x : Nat) (v : Byte) :
    readByte (insertByte (eraseByte m a) a v) x = if x = a then v else readByte m x := by
  induction m with
  | nil => by_cases hx : x = a <;> simp [eraseByte, insertByte, readByte, hx]
  | cons c rest ih =>
    obtain ⟨b, u⟩ := c
    unfold eraseByte
    by_cases hb : b = a
    · subst hb
      rw [if_pos rfl, ih]
      by_cases hx : x = b <;> simp [readByte, hx]
    · rw [if_neg hb]
      unfold insertByte
      by_cases hab : a < b
      · rw [if_pos hab]
        by_cases hx : x = a
        · simp [readByte, hx]
        · by_cases hxb : x = b
          · simp [readByte, hxb, hb]
          · simp [readByte, hx, hxb, readByte_eraseByte]
      · rw [if_neg hab]
        by_cases hxb : x = b
        · subst hxb
          simp [readByte, hb]
        · simp [readByte, hxb, ih]

/-- A read after a write: the value written there, the old value elsewhere. -/
@[simp] theorem readByte_writeByte (m : Memory) (a x : Nat) (v : Byte) :
    readByte (writeByte m a v) x = if x = a then v else readByte m x := by
  unfold writeByte
  by_cases hv : v = unlistedByte
  · rw [if_pos hv, readByte_eraseByte, hv]
    rfl
  · rw [if_neg hv, readByte_insertByte]

/-! ## The canonical form -/

theorem wfFrom_mono {m : Memory} {low low' : Nat} (h : wfFrom low m = true) (hle : low' ≤ low) :
    wfFrom low' m = true := by
  cases m with
  | nil => rfl
  | cons c rest =>
    obtain ⟨b, u⟩ := c
    simp only [wfFrom, Bool.and_eq_true, decide_eq_true_eq] at h ⊢
    exact ⟨⟨⟨le_trans hle h.1.1.1, h.1.1.2⟩, h.1.2⟩, h.2⟩

theorem wfFrom_eraseByte {m : Memory} {low : Nat} (a : Nat) (h : wfFrom low m = true) :
    wfFrom low (eraseByte m a) = true := by
  induction m generalizing low with
  | nil => rfl
  | cons c rest ih =>
    obtain ⟨b, u⟩ := c
    simp only [wfFrom, Bool.and_eq_true, decide_eq_true_eq] at h
    unfold eraseByte
    by_cases hb : b = a
    · rw [if_pos hb]
      exact wfFrom_mono (ih h.2) (by omega)
    · rw [if_neg hb]
      simp only [wfFrom, Bool.and_eq_true, decide_eq_true_eq]
      exact ⟨h.1, ih h.2⟩

theorem wfFrom_insertByte {m : Memory} {low a : Nat} {v : Byte} (h : wfFrom low m = true) (hlow : low ≤ a)
    (ha : a < Config.bufferBytes) (hv : v ≠ unlistedByte) :
    wfFrom low (insertByte (eraseByte m a) a v) = true := by
  induction m generalizing low with
  | nil => simp [eraseByte, insertByte, wfFrom, hlow, ha, hv]
  | cons c rest ih =>
    obtain ⟨b, u⟩ := c
    simp only [wfFrom, Bool.and_eq_true, decide_eq_true_eq] at h
    unfold eraseByte
    by_cases hb : b = a
    · rw [if_pos hb]
      exact ih (wfFrom_mono h.2 (by omega)) hlow
    · rw [if_neg hb]
      unfold insertByte
      by_cases hab : a < b
      · rw [if_pos hab]
        simp only [wfFrom, Bool.and_eq_true, decide_eq_true_eq]
        exact ⟨⟨⟨hlow, ha⟩, hv⟩, ⟨⟨⟨hab, h.1.1.2⟩, h.1.2⟩, wfFrom_eraseByte a h.2⟩⟩
      · rw [if_neg hab]
        simp only [wfFrom, Bool.and_eq_true, decide_eq_true_eq]
        exact ⟨h.1, ih h.2 (by omega)⟩

/-- A write inside the buffer keeps the canonical form. -/
theorem wf_writeByte {m : Memory} {a : Nat} (v : Byte) (h : m.wf = true) (ha : a < Config.bufferBytes) :
    (writeByte m a v).wf = true := by
  unfold writeByte Memory.wf
  by_cases hv : v = unlistedByte
  · rw [if_pos hv]
    exact wfFrom_eraseByte a h
  · rw [if_neg hv]
    exact wfFrom_insertByte h (Nat.zero_le a) ha hv

theorem wf_nil : Memory.wf [] = true := rfl

/-- Nothing is listed below `low`. -/
theorem readByte_below {m : Memory} {low x : Nat} (h : wfFrom low m = true) (hx : x < low) : readByte m x = 0 := by
  induction m generalizing low with
  | nil => rfl
  | cons c rest ih =>
    obtain ⟨b, u⟩ := c
    simp only [wfFrom, Bool.and_eq_true, decide_eq_true_eq] at h
    rw [readByte, if_neg (by omega)]
    exact ih h.2 (by omega)

theorem eq_of_readByte_from {m m' : Memory} {low : Nat} (h : wfFrom low m = true) (h' : wfFrom low m' = true)
    (hr : ∀ a, readByte m a = readByte m' a) : m = m' := by
  induction m generalizing m' low with
  | nil =>
    cases m' with
    | nil => rfl
    | cons c rest =>
      obtain ⟨b, u⟩ := c
      simp only [wfFrom, Bool.and_eq_true, decide_eq_true_eq] at h'
      have hb := hr b
      simp only [readByte, if_true] at hb
      exact absurd hb.symm h'.1.2
  | cons c rest ih =>
    obtain ⟨b, u⟩ := c
    simp only [wfFrom, Bool.and_eq_true, decide_eq_true_eq] at h
    cases m' with
    | nil =>
      have hb := hr b
      simp only [readByte, if_true] at hb
      exact absurd hb h.1.2
    | cons c' rest' =>
      obtain ⟨b', u'⟩ := c'
      simp only [wfFrom, Bool.and_eq_true, decide_eq_true_eq] at h'
      have hbb : b = b' := by
        rcases lt_trichotomy b b' with hlt | heq | hgt
        · have hb := hr b
          rw [readByte, if_pos rfl, readByte, if_neg (by omega), readByte_below h'.2 (by omega)] at hb
          exact absurd hb h.1.2
        · exact heq
        · have hb := hr b'
          rw [readByte, if_neg (by omega), readByte_below h.2 (by omega), readByte, if_pos rfl] at hb
          exact absurd hb.symm h'.1.2
      subst hbb
      have huu : u = u' := by simpa [readByte] using hr b
      subst huu
      have hrest : rest = rest' := by
        refine ih h.2 h'.2 fun a => ?_
        by_cases ha : a = b
        · rw [readByte_below h.2 (by omega), readByte_below h'.2 (by omega)]
        · have := hr a
          rwa [readByte, if_neg ha, readByte, if_neg ha] at this
      rw [hrest]

/-- Canonical buffers with equal bytes are equal data. -/
theorem eq_of_readByte {m m' : Memory} (h : m.wf = true) (h' : m'.wf = true)
    (hr : ∀ a, readByte m a = readByte m' a) : m = m' :=
  eq_of_readByte_from h h' hr

/-! ## Bits -/

theorem getLsbD_setByteBit (x : Byte) (k j : Nat) (b : Bool) (hk : k < 8) :
    (setByteBit x k b).getLsbD j = if j = k then b else x.getLsbD j := by
  unfold setByteBit
  by_cases hj : j < 8
  · cases b
    · by_cases hjk : j = k
      · subst hjk
        simp [hj]
      · simp [hj, hjk]
    · by_cases hjk : j = k
      · subst hjk
        simp [hj]
      · simp [BitVec.getLsbD_twoPow, hjk, Ne.symm hjk]
  · have hjk : j ≠ k := by omega
    have h1 : ∀ y : Byte, y.getLsbD j = false := fun y => BitVec.getLsbD_of_ge y j (by omega)
    simp [h1, hjk]

theorem readByte_putBit (m : Memory) (p x : Nat) (b : Bool) :
    readByte (putBit m p b) x =
      if x = p / 8 then setByteBit (readByte m (p / 8)) (7 - p % 8) b else readByte m x := by
  unfold putBit
  rw [readByte_writeByte]

/-- PutBit assigns its bit and changes no other (40_bit_packer.md R121). -/
theorem getBit_putBit (m : Memory) (p q : Nat) (b : Bool) :
    getBit (putBit m p b) q = if q = p then b else getBit m q := by
  unfold getBit
  rw [readByte_putBit]
  by_cases hbyte : q / 8 = p / 8
  · rw [if_pos hbyte, getLsbD_setByteBit _ _ _ _ (by omega)]
    by_cases hq : q = p
    · simp [hq]
    · rw [if_neg hq, if_neg (by omega), hbyte]
  · rw [if_neg hbyte, if_neg (fun h => hbyte (by rw [h]))]

theorem wf_putBit {m : Memory} {p : Nat} (b : Bool) (h : m.wf = true) (hp : p < 8 * Config.bufferBytes) :
    (putBit m p b).wf = true :=
  wf_writeByte _ h (by unfold Config.bufferBytes at *; omega)

/-- The bits of a byte are frame bits: two buffers with equal frame bits have equal bytes. -/
theorem readByte_eq_of_getBit {m m' : Memory} (a : Nat) (h : ∀ j, j < 8 → getBit m (8 * a + j) = getBit m' (8 * a + j)) :
    readByte m a = readByte m' a := by
  apply BitVec.eq_of_getLsbD_eq
  intro i hi
  have := h (7 - i) (by omega)
  unfold getBit at this
  rwa [show (8 * a + (7 - i)) / 8 = a by omega, show 7 - (8 * a + (7 - i)) % 8 = i by omega] at this

/-! ## Fields -/

/-- PutField writes its bits, most significant first, and no other (40_bit_packer.md R124). -/
theorem getBit_putField (m : Memory) (p w v q : Nat) :
    getBit (putField m p w v) q = if p ≤ q ∧ q < p + w then v.testBit (w - 1 - (q - p)) else getBit m q := by
  induction w generalizing m p with
  | zero => rw [putField, if_neg (by omega)]
  | succ w ih =>
    rw [putField, ih]
    by_cases h1 : p + 1 ≤ q ∧ q < p + 1 + w
    · rw [if_pos h1, if_pos (by omega)]
      congr 1
      omega
    · rw [if_neg h1, getBit_putBit]
      by_cases h2 : q = p
      · subst h2
        rw [if_pos rfl, if_pos (by omega)]
        congr 1
        omega
      · rw [if_neg h2, if_neg (by omega)]

theorem wf_putField {m : Memory} {p w : Nat} (v : Nat) (h : m.wf = true) (hp : p + w ≤ 8 * Config.bufferBytes) :
    (putField m p w v).wf = true := by
  induction w generalizing m p with
  | zero => exact h
  | succ w ih => exact ih (wf_putBit _ h (by omega)) (by omega)

/-- A byte that holds none of the field's bits is as before. -/
theorem readByte_putField (m : Memory) (p w v a : Nat) (h : 8 * a + 7 < p ∨ p + w ≤ 8 * a) :
    readByte (putField m p w v) a = readByte m a := by
  apply readByte_eq_of_getBit
  intro j hj
  rw [getBit_putField, if_neg (by omega)]

/-- Consecutive fields leave every bit outside their extent alone. -/
theorem getBit_putFields_outside (fs : List (Nat × Nat)) (m : Memory) (p q : Nat) (h : q < p ∨ p + totalWidth fs ≤ q) :
    getBit (putFields m p fs) q = getBit m q := by
  induction fs generalizing m p with
  | nil => rfl
  | cons f rest ih =>
    obtain ⟨w, v⟩ := f
    rw [putFields]
    rw [totalWidth] at h
    rw [ih _ _ (by omega), getBit_putField, if_neg (by omega)]

theorem readByte_putFields_outside (fs : List (Nat × Nat)) (m : Memory) (p a : Nat)
    (h : 8 * a + 7 < p ∨ p + totalWidth fs ≤ 8 * a) : readByte (putFields m p fs) a = readByte m a := by
  apply readByte_eq_of_getBit
  intro j hj
  exact getBit_putFields_outside fs m p _ (by omega)

theorem wf_putFields {fs : List (Nat × Nat)} {m : Memory} {p : Nat} (h : m.wf = true)
    (hp : p + totalWidth fs ≤ 8 * Config.bufferBytes) : (putFields m p fs).wf = true := by
  induction fs generalizing m p with
  | nil => exact h
  | cons f rest ih =>
    obtain ⟨w, v⟩ := f
    rw [totalWidth] at hp
    exact ih (wf_putField v h (by omega)) (by omega)

theorem totalWidth_append (fs gs : List (Nat × Nat)) : totalWidth (fs ++ gs) = totalWidth fs + totalWidth gs := by
  induction fs with
  | nil => simp [totalWidth]
  | cons f rest ih => simp [totalWidth, ih, Nat.add_assoc]

theorem putFields_append (fs gs : List (Nat × Nat)) (m : Memory) (p : Nat) :
    putFields m p (fs ++ gs) = putFields (putFields m p fs) (p + totalWidth fs) gs := by
  induction fs generalizing m p with
  | nil => rfl
  | cons f rest ih => simp [putFields, totalWidth, ih, Nat.add_assoc]

/-! ## Words -/

theorem readByte_memWrite (m : Memory) (a n v x : Nat) :
    readByte (memWrite m a n v) x =
      if a ≤ x ∧ x < a + n then BitVec.ofNat 8 (v / 2 ^ (8 * (n - 1 - (x - a)))) else readByte m x := by
  induction n generalizing m a with
  | zero => rw [memWrite, if_neg (by omega)]
  | succ n ih =>
    rw [memWrite, ih]
    by_cases h1 : a + 1 ≤ x ∧ x < a + 1 + n
    · rw [if_pos h1, if_pos (by omega), show n - 1 - (x - (a + 1)) = n + 1 - 1 - (x - a) by omega]
    · rw [if_neg h1, readByte_writeByte]
      by_cases h2 : x = a
      · subst h2
        rw [if_pos rfl, if_pos (by omega), show n + 1 - 1 - (x - x) = n by omega]
      · rw [if_neg h2, if_neg (by omega)]

theorem wf_memWrite {m : Memory} {a n : Nat} (v : Nat) (h : m.wf = true) (ha : a + n ≤ Config.bufferBytes) :
    (memWrite m a n v).wf = true := by
  induction n generalizing m a with
  | zero => exact h
  | succ n ih => exact ih (wf_writeByte _ h (by omega)) (by omega)

end Sys2Proof.Machine
end

