-- ==== Sys2Proof/Laws/State.lean ====
section
/-! SUPPORT. One lemma per field per named update of State, true by rfl, so that no proof unfolds a record update, and what
the updates leave of the active table. -/

namespace Sys2Proof.Machine

@[simp] theorem setFrame_opa (m : Memory) (s : State) : (setFrame m s).opa = s.opa := rfl
@[simp] theorem setFrame_opb (m : Memory) (s : State) : (setFrame m s).opb = s.opb := rfl
@[simp] theorem setFrame_opc (m : Memory) (s : State) : (setFrame m s).opc = s.opc := rfl
@[simp] theorem setFrame_poly (m : Memory) (s : State) : (setFrame m s).poly = s.poly := rfl
@[simp] theorem setFrame_attach (m : Memory) (s : State) : (setFrame m s).attach = s.attach := rfl
@[simp] theorem setFrame_cfgVariant (m : Memory) (s : State) : (setFrame m s).cfgVariant = s.cfgVariant := rfl
@[simp] theorem setFrame_cfgBchEn (m : Memory) (s : State) : (setFrame m s).cfgBchEn = s.cfgBchEn := rfl
@[simp] theorem setFrame_invalid (m : Memory) (s : State) : (setFrame m s).invalid = s.invalid := rfl
@[simp] theorem setFrame_cmdErr (m : Memory) (s : State) : (setFrame m s).cmdErr = s.cmdErr := rfl
@[simp] theorem setFrame_asmState (m : Memory) (s : State) : (setFrame m s).asmState = s.asmState := rfl
@[simp] theorem setFrame_result (m : Memory) (s : State) : (setFrame m s).result = s.result := rfl
@[simp] theorem setFrame_frame (m : Memory) (s : State) : (setFrame m s).frame = m := rfl
@[simp] theorem setFrame_userBuf (m : Memory) (s : State) : (setFrame m s).userBuf = s.userBuf := rfl
@[simp] theorem setFrame_actVariant (m : Memory) (s : State) : (setFrame m s).actVariant = s.actVariant := rfl
@[simp] theorem setFrame_actBch (m : Memory) (s : State) : (setFrame m s).actBch = s.actBch := rfl
@[simp] theorem setFrame_pend (m : Memory) (s : State) : (setFrame m s).pend = s.pend := rfl
@[simp] theorem setFrame_latencyLeft (m : Memory) (s : State) : (setFrame m s).latencyLeft = s.latencyLeft := rfl
@[simp] theorem setFrame_issued (m : Memory) (s : State) : (setFrame m s).issued = s.issued := rfl
@[simp] theorem setFrame_input (m : Memory) (s : State) : (setFrame m s).input = s.input := rfl
@[simp] theorem setFrame_reads (m : Memory) (s : State) : (setFrame m s).reads = s.reads := rfl
@[simp] theorem activeLayout_setFrame (m : Memory) (s : State) : activeLayout (setFrame m s) = activeLayout s := rfl
@[simp] theorem flen_setFrame (m : Memory) (s : State) : flen (setFrame m s) = flen s := rfl
@[simp] theorem frameBits_setFrame (m : Memory) (s : State) : frameBits (setFrame m s) = frameBits s := rfl

@[simp] theorem setResult_opa (v : Word) (s : State) : (setResult v s).opa = s.opa := rfl
@[simp] theorem setResult_opb (v : Word) (s : State) : (setResult v s).opb = s.opb := rfl
@[simp] theorem setResult_opc (v : Word) (s : State) : (setResult v s).opc = s.opc := rfl
@[simp] theorem setResult_poly (v : Word) (s : State) : (setResult v s).poly = s.poly := rfl
@[simp] theorem setResult_attach (v : Word) (s : State) : (setResult v s).attach = s.attach := rfl
@[simp] theorem setResult_cfgVariant (v : Word) (s : State) : (setResult v s).cfgVariant = s.cfgVariant := rfl
@[simp] theorem setResult_cfgBchEn (v : Word) (s : State) : (setResult v s).cfgBchEn = s.cfgBchEn := rfl
@[simp] theorem setResult_invalid (v : Word) (s : State) : (setResult v s).invalid = s.invalid := rfl
@[simp] theorem setResult_cmdErr (v : Word) (s : State) : (setResult v s).cmdErr = s.cmdErr := rfl
@[simp] theorem setResult_asmState (v : Word) (s : State) : (setResult v s).asmState = s.asmState := rfl
@[simp] theorem setResult_result (v : Word) (s : State) : (setResult v s).result = v := rfl
@[simp] theorem setResult_frame (v : Word) (s : State) : (setResult v s).frame = s.frame := rfl
@[simp] theorem setResult_userBuf (v : Word) (s : State) : (setResult v s).userBuf = s.userBuf := rfl
@[simp] theorem setResult_actVariant (v : Word) (s : State) : (setResult v s).actVariant = s.actVariant := rfl
@[simp] theorem setResult_actBch (v : Word) (s : State) : (setResult v s).actBch = s.actBch := rfl
@[simp] theorem setResult_pend (v : Word) (s : State) : (setResult v s).pend = s.pend := rfl
@[simp] theorem setResult_latencyLeft (v : Word) (s : State) : (setResult v s).latencyLeft = s.latencyLeft := rfl
@[simp] theorem setResult_issued (v : Word) (s : State) : (setResult v s).issued = s.issued := rfl
@[simp] theorem setResult_input (v : Word) (s : State) : (setResult v s).input = s.input := rfl
@[simp] theorem setResult_reads (v : Word) (s : State) : (setResult v s).reads = s.reads := rfl
@[simp] theorem activeLayout_setResult (v : Word) (s : State) : activeLayout (setResult v s) = activeLayout s := rfl
@[simp] theorem flen_setResult (v : Word) (s : State) : flen (setResult v s) = flen s := rfl
@[simp] theorem frameBits_setResult (v : Word) (s : State) : frameBits (setResult v s) = frameBits s := rfl

@[simp] theorem flagsOk_opa (s : State) : (flagsOk s).opa = s.opa := rfl
@[simp] theorem flagsOk_opb (s : State) : (flagsOk s).opb = s.opb := rfl
@[simp] theorem flagsOk_opc (s : State) : (flagsOk s).opc = s.opc := rfl
@[simp] theorem flagsOk_poly (s : State) : (flagsOk s).poly = s.poly := rfl
@[simp] theorem flagsOk_attach (s : State) : (flagsOk s).attach = s.attach := rfl
@[simp] theorem flagsOk_cfgVariant (s : State) : (flagsOk s).cfgVariant = s.cfgVariant := rfl
@[simp] theorem flagsOk_cfgBchEn (s : State) : (flagsOk s).cfgBchEn = s.cfgBchEn := rfl
@[simp] theorem flagsOk_invalid (s : State) : (flagsOk s).invalid = false := rfl
@[simp] theorem flagsOk_cmdErr (s : State) : (flagsOk s).cmdErr = false := rfl
@[simp] theorem flagsOk_asmState (s : State) : (flagsOk s).asmState = s.asmState := rfl
@[simp] theorem flagsOk_result (s : State) : (flagsOk s).result = s.result := rfl
@[simp] theorem flagsOk_frame (s : State) : (flagsOk s).frame = s.frame := rfl
@[simp] theorem flagsOk_userBuf (s : State) : (flagsOk s).userBuf = s.userBuf := rfl
@[simp] theorem flagsOk_actVariant (s : State) : (flagsOk s).actVariant = s.actVariant := rfl
@[simp] theorem flagsOk_actBch (s : State) : (flagsOk s).actBch = s.actBch := rfl
@[simp] theorem flagsOk_pend (s : State) : (flagsOk s).pend = s.pend := rfl
@[simp] theorem flagsOk_latencyLeft (s : State) : (flagsOk s).latencyLeft = s.latencyLeft := rfl
@[simp] theorem flagsOk_issued (s : State) : (flagsOk s).issued = s.issued := rfl
@[simp] theorem flagsOk_input (s : State) : (flagsOk s).input = s.input := rfl
@[simp] theorem flagsOk_reads (s : State) : (flagsOk s).reads = s.reads := rfl
@[simp] theorem activeLayout_flagsOk (s : State) : activeLayout (flagsOk s) = activeLayout s := rfl
@[simp] theorem flen_flagsOk (s : State) : flen (flagsOk s) = flen s := rfl
@[simp] theorem frameBits_flagsOk (s : State) : frameBits (flagsOk s) = frameBits s := rfl

@[simp] theorem flagsCmdErr_opa (s : State) : (flagsCmdErr s).opa = s.opa := rfl
@[simp] theorem flagsCmdErr_opb (s : State) : (flagsCmdErr s).opb = s.opb := rfl
@[simp] theorem flagsCmdErr_opc (s : State) : (flagsCmdErr s).opc = s.opc := rfl
@[simp] theorem flagsCmdErr_poly (s : State) : (flagsCmdErr s).poly = s.poly := rfl
@[simp] theorem flagsCmdErr_attach (s : State) : (flagsCmdErr s).attach = s.attach := rfl
@[simp] theorem flagsCmdErr_cfgVariant (s : State) : (flagsCmdErr s).cfgVariant = s.cfgVariant := rfl
@[simp] theorem flagsCmdErr_cfgBchEn (s : State) : (flagsCmdErr s).cfgBchEn = s.cfgBchEn := rfl
@[simp] theorem flagsCmdErr_invalid (s : State) : (flagsCmdErr s).invalid = false := rfl
@[simp] theorem flagsCmdErr_cmdErr (s : State) : (flagsCmdErr s).cmdErr = true := rfl
@[simp] theorem flagsCmdErr_asmState (s : State) : (flagsCmdErr s).asmState = s.asmState := rfl
@[simp] theorem flagsCmdErr_result (s : State) : (flagsCmdErr s).result = s.result := rfl
@[simp] theorem flagsCmdErr_frame (s : State) : (flagsCmdErr s).frame = s.frame := rfl
@[simp] theorem flagsCmdErr_userBuf (s : State) : (flagsCmdErr s).userBuf = s.userBuf := rfl
@[simp] theorem flagsCmdErr_actVariant (s : State) : (flagsCmdErr s).actVariant = s.actVariant := rfl
@[simp] theorem flagsCmdErr_actBch (s : State) : (flagsCmdErr s).actBch = s.actBch := rfl
@[simp] theorem flagsCmdErr_pend (s : State) : (flagsCmdErr s).pend = s.pend := rfl
@[simp] theorem flagsCmdErr_latencyLeft (s : State) : (flagsCmdErr s).latencyLeft = s.latencyLeft := rfl
@[simp] theorem flagsCmdErr_issued (s : State) : (flagsCmdErr s).issued = s.issued := rfl
@[simp] theorem flagsCmdErr_input (s : State) : (flagsCmdErr s).input = s.input := rfl
@[simp] theorem flagsCmdErr_reads (s : State) : (flagsCmdErr s).reads = s.reads := rfl
@[simp] theorem activeLayout_flagsCmdErr (s : State) : activeLayout (flagsCmdErr s) = activeLayout s := rfl
@[simp] theorem flen_flagsCmdErr (s : State) : flen (flagsCmdErr s) = flen s := rfl
@[simp] theorem frameBits_flagsCmdErr (s : State) : frameBits (flagsCmdErr s) = frameBits s := rfl

@[simp] theorem flagsInvalid_opa (s : State) : (flagsInvalid s).opa = s.opa := rfl
@[simp] theorem flagsInvalid_opb (s : State) : (flagsInvalid s).opb = s.opb := rfl
@[simp] theorem flagsInvalid_opc (s : State) : (flagsInvalid s).opc = s.opc := rfl
@[simp] theorem flagsInvalid_poly (s : State) : (flagsInvalid s).poly = s.poly := rfl
@[simp] theorem flagsInvalid_attach (s : State) : (flagsInvalid s).attach = s.attach := rfl
@[simp] theorem flagsInvalid_cfgVariant (s : State) : (flagsInvalid s).cfgVariant = s.cfgVariant := rfl
@[simp] theorem flagsInvalid_cfgBchEn (s : State) : (flagsInvalid s).cfgBchEn = s.cfgBchEn := rfl
@[simp] theorem flagsInvalid_invalid (s : State) : (flagsInvalid s).invalid = true := rfl
@[simp] theorem flagsInvalid_cmdErr (s : State) : (flagsInvalid s).cmdErr = false := rfl
@[simp] theorem flagsInvalid_asmState (s : State) : (flagsInvalid s).asmState = s.asmState := rfl
@[simp] theorem flagsInvalid_result (s : State) : (flagsInvalid s).result = s.result := rfl
@[simp] theorem flagsInvalid_frame (s : State) : (flagsInvalid s).frame = s.frame := rfl
@[simp] theorem flagsInvalid_userBuf (s : State) : (flagsInvalid s).userBuf = s.userBuf := rfl
@[simp] theorem flagsInvalid_actVariant (s : State) : (flagsInvalid s).actVariant = s.actVariant := rfl
@[simp] theorem flagsInvalid_actBch (s : State) : (flagsInvalid s).actBch = s.actBch := rfl
@[simp] theorem flagsInvalid_pend (s : State) : (flagsInvalid s).pend = s.pend := rfl
@[simp] theorem flagsInvalid_latencyLeft (s : State) : (flagsInvalid s).latencyLeft = s.latencyLeft := rfl
@[simp] theorem flagsInvalid_issued (s : State) : (flagsInvalid s).issued = s.issued := rfl
@[simp] theorem flagsInvalid_input (s : State) : (flagsInvalid s).input = s.input := rfl
@[simp] theorem flagsInvalid_reads (s : State) : (flagsInvalid s).reads = s.reads := rfl
@[simp] theorem activeLayout_flagsInvalid (s : State) : activeLayout (flagsInvalid s) = activeLayout s := rfl
@[simp] theorem flen_flagsInvalid (s : State) : flen (flagsInvalid s) = flen s := rfl
@[simp] theorem frameBits_flagsInvalid (s : State) : frameBits (flagsInvalid s) = frameBits s := rfl

@[simp] theorem frameWritten_opa (s : State) : (frameWritten s).opa = s.opa := rfl
@[simp] theorem frameWritten_opb (s : State) : (frameWritten s).opb = s.opb := rfl
@[simp] theorem frameWritten_opc (s : State) : (frameWritten s).opc = s.opc := rfl
@[simp] theorem frameWritten_poly (s : State) : (frameWritten s).poly = s.poly := rfl
@[simp] theorem frameWritten_attach (s : State) : (frameWritten s).attach = s.attach := rfl
@[simp] theorem frameWritten_cfgVariant (s : State) : (frameWritten s).cfgVariant = s.cfgVariant := rfl
@[simp] theorem frameWritten_cfgBchEn (s : State) : (frameWritten s).cfgBchEn = s.cfgBchEn := rfl
@[simp] theorem frameWritten_invalid (s : State) : (frameWritten s).invalid = s.invalid := rfl
@[simp] theorem frameWritten_cmdErr (s : State) : (frameWritten s).cmdErr = s.cmdErr := rfl
@[simp] theorem frameWritten_asmState (s : State) : (frameWritten s).asmState = populate s.asmState := rfl
@[simp] theorem frameWritten_result (s : State) : (frameWritten s).result = s.result := rfl
@[simp] theorem frameWritten_frame (s : State) : (frameWritten s).frame = s.frame := rfl
@[simp] theorem frameWritten_userBuf (s : State) : (frameWritten s).userBuf = s.userBuf := rfl
@[simp] theorem frameWritten_actVariant (s : State) : (frameWritten s).actVariant = s.actVariant := rfl
@[simp] theorem frameWritten_actBch (s : State) : (frameWritten s).actBch = s.actBch := rfl
@[simp] theorem frameWritten_pend (s : State) : (frameWritten s).pend = s.pend := rfl
@[simp] theorem frameWritten_latencyLeft (s : State) : (frameWritten s).latencyLeft = s.latencyLeft := rfl
@[simp] theorem frameWritten_issued (s : State) : (frameWritten s).issued = s.issued := rfl
@[simp] theorem frameWritten_input (s : State) : (frameWritten s).input = s.input := rfl
@[simp] theorem frameWritten_reads (s : State) : (frameWritten s).reads = s.reads := rfl
@[simp] theorem activeLayout_frameWritten (s : State) : activeLayout (frameWritten s) = activeLayout s := rfl
@[simp] theorem flen_frameWritten (s : State) : flen (frameWritten s) = flen s := rfl
@[simp] theorem frameBits_frameWritten (s : State) : frameBits (frameWritten s) = frameBits s := rfl

@[simp] theorem sealFrame_opa (s : State) : (sealFrame s).opa = s.opa := rfl
@[simp] theorem sealFrame_opb (s : State) : (sealFrame s).opb = s.opb := rfl
@[simp] theorem sealFrame_opc (s : State) : (sealFrame s).opc = s.opc := rfl
@[simp] theorem sealFrame_poly (s : State) : (sealFrame s).poly = s.poly := rfl
@[simp] theorem sealFrame_attach (s : State) : (sealFrame s).attach = s.attach := rfl
@[simp] theorem sealFrame_cfgVariant (s : State) : (sealFrame s).cfgVariant = s.cfgVariant := rfl
@[simp] theorem sealFrame_cfgBchEn (s : State) : (sealFrame s).cfgBchEn = s.cfgBchEn := rfl
@[simp] theorem sealFrame_invalid (s : State) : (sealFrame s).invalid = s.invalid := rfl
@[simp] theorem sealFrame_cmdErr (s : State) : (sealFrame s).cmdErr = s.cmdErr := rfl
@[simp] theorem sealFrame_asmState (s : State) : (sealFrame s).asmState = .sealed := rfl
@[simp] theorem sealFrame_result (s : State) : (sealFrame s).result = s.result := rfl
@[simp] theorem sealFrame_frame (s : State) : (sealFrame s).frame = s.frame := rfl
@[simp] theorem sealFrame_userBuf (s : State) : (sealFrame s).userBuf = s.userBuf := rfl
@[simp] theorem sealFrame_actVariant (s : State) : (sealFrame s).actVariant = s.actVariant := rfl
@[simp] theorem sealFrame_actBch (s : State) : (sealFrame s).actBch = s.actBch := rfl
@[simp] theorem sealFrame_pend (s : State) : (sealFrame s).pend = s.pend := rfl
@[simp] theorem sealFrame_latencyLeft (s : State) : (sealFrame s).latencyLeft = s.latencyLeft := rfl
@[simp] theorem sealFrame_issued (s : State) : (sealFrame s).issued = s.issued := rfl
@[simp] theorem sealFrame_input (s : State) : (sealFrame s).input = s.input := rfl
@[simp] theorem sealFrame_reads (s : State) : (sealFrame s).reads = s.reads := rfl
@[simp] theorem activeLayout_sealFrame (s : State) : activeLayout (sealFrame s) = activeLayout s := rfl
@[simp] theorem flen_sealFrame (s : State) : flen (sealFrame s) = flen s := rfl
@[simp] theorem frameBits_sealFrame (s : State) : frameBits (sealFrame s) = frameBits s := rfl

@[simp] theorem outcomeCmdErr_opa (s : State) : (outcomeCmdErr s).opa = s.opa := rfl
@[simp] theorem outcomeCmdErr_opb (s : State) : (outcomeCmdErr s).opb = s.opb := rfl
@[simp] theorem outcomeCmdErr_opc (s : State) : (outcomeCmdErr s).opc = s.opc := rfl
@[simp] theorem outcomeCmdErr_poly (s : State) : (outcomeCmdErr s).poly = s.poly := rfl
@[simp] theorem outcomeCmdErr_attach (s : State) : (outcomeCmdErr s).attach = s.attach := rfl
@[simp] theorem outcomeCmdErr_cfgVariant (s : State) : (outcomeCmdErr s).cfgVariant = s.cfgVariant := rfl
@[simp] theorem outcomeCmdErr_cfgBchEn (s : State) : (outcomeCmdErr s).cfgBchEn = s.cfgBchEn := rfl
@[simp] theorem outcomeCmdErr_invalid (s : State) : (outcomeCmdErr s).invalid = false := rfl
@[simp] theorem outcomeCmdErr_cmdErr (s : State) : (outcomeCmdErr s).cmdErr = true := rfl
@[simp] theorem outcomeCmdErr_asmState (s : State) : (outcomeCmdErr s).asmState = s.asmState := rfl
@[simp] theorem outcomeCmdErr_result (s : State) : (outcomeCmdErr s).result = s.result := rfl
@[simp] theorem outcomeCmdErr_frame (s : State) : (outcomeCmdErr s).frame = s.frame := rfl
@[simp] theorem outcomeCmdErr_userBuf (s : State) : (outcomeCmdErr s).userBuf = s.userBuf := rfl
@[simp] theorem outcomeCmdErr_actVariant (s : State) : (outcomeCmdErr s).actVariant = s.actVariant := rfl
@[simp] theorem outcomeCmdErr_actBch (s : State) : (outcomeCmdErr s).actBch = s.actBch := rfl
@[simp] theorem outcomeCmdErr_pend (s : State) : (outcomeCmdErr s).pend = s.pend := rfl
@[simp] theorem outcomeCmdErr_latencyLeft (s : State) : (outcomeCmdErr s).latencyLeft = s.latencyLeft := rfl
@[simp] theorem outcomeCmdErr_issued (s : State) : (outcomeCmdErr s).issued = s.issued := rfl
@[simp] theorem outcomeCmdErr_input (s : State) : (outcomeCmdErr s).input = s.input := rfl
@[simp] theorem outcomeCmdErr_reads (s : State) : (outcomeCmdErr s).reads = s.reads := rfl
@[simp] theorem activeLayout_outcomeCmdErr (s : State) : activeLayout (outcomeCmdErr s) = activeLayout s := rfl
@[simp] theorem flen_outcomeCmdErr (s : State) : flen (outcomeCmdErr s) = flen s := rfl
@[simp] theorem frameBits_outcomeCmdErr (s : State) : frameBits (outcomeCmdErr s) = frameBits s := rfl

@[simp] theorem outcomeInvalid_opa (b : Bool) (s : State) : (outcomeInvalid b s).opa = s.opa := rfl
@[simp] theorem outcomeInvalid_opb (b : Bool) (s : State) : (outcomeInvalid b s).opb = s.opb := rfl
@[simp] theorem outcomeInvalid_opc (b : Bool) (s : State) : (outcomeInvalid b s).opc = s.opc := rfl
@[simp] theorem outcomeInvalid_poly (b : Bool) (s : State) : (outcomeInvalid b s).poly = s.poly := rfl
@[simp] theorem outcomeInvalid_attach (b : Bool) (s : State) : (outcomeInvalid b s).attach = s.attach := rfl
@[simp] theorem outcomeInvalid_cfgVariant (b : Bool) (s : State) : (outcomeInvalid b s).cfgVariant = s.cfgVariant := rfl
@[simp] theorem outcomeInvalid_cfgBchEn (b : Bool) (s : State) : (outcomeInvalid b s).cfgBchEn = s.cfgBchEn := rfl
@[simp] theorem outcomeInvalid_invalid (b : Bool) (s : State) : (outcomeInvalid b s).invalid = true := rfl
@[simp] theorem outcomeInvalid_cmdErr (b : Bool) (s : State) : (outcomeInvalid b s).cmdErr = false := rfl
@[simp] theorem outcomeInvalid_asmState (b : Bool) (s : State) : (outcomeInvalid b s).asmState = s.asmState := rfl
@[simp] theorem outcomeInvalid_result (b : Bool) (s : State) : (outcomeInvalid b s).result = if b then sentinel else s.result := rfl
@[simp] theorem outcomeInvalid_frame (b : Bool) (s : State) : (outcomeInvalid b s).frame = s.frame := rfl
@[simp] theorem outcomeInvalid_userBuf (b : Bool) (s : State) : (outcomeInvalid b s).userBuf = s.userBuf := rfl
@[simp] theorem outcomeInvalid_actVariant (b : Bool) (s : State) : (outcomeInvalid b s).actVariant = s.actVariant := rfl
@[simp] theorem outcomeInvalid_actBch (b : Bool) (s : State) : (outcomeInvalid b s).actBch = s.actBch := rfl
@[simp] theorem outcomeInvalid_pend (b : Bool) (s : State) : (outcomeInvalid b s).pend = s.pend := rfl
@[simp] theorem outcomeInvalid_latencyLeft (b : Bool) (s : State) : (outcomeInvalid b s).latencyLeft = s.latencyLeft := rfl
@[simp] theorem outcomeInvalid_issued (b : Bool) (s : State) : (outcomeInvalid b s).issued = s.issued := rfl
@[simp] theorem outcomeInvalid_input (b : Bool) (s : State) : (outcomeInvalid b s).input = s.input := rfl
@[simp] theorem outcomeInvalid_reads (b : Bool) (s : State) : (outcomeInvalid b s).reads = s.reads := rfl
@[simp] theorem activeLayout_outcomeInvalid (b : Bool) (s : State) : activeLayout (outcomeInvalid b s) = activeLayout s := rfl
@[simp] theorem flen_outcomeInvalid (b : Bool) (s : State) : flen (outcomeInvalid b s) = flen s := rfl
@[simp] theorem frameBits_outcomeInvalid (b : Bool) (s : State) : frameBits (outcomeInvalid b s) = frameBits s := rfl

@[simp] theorem retire_opa (s : State) : (retire s).opa = s.opa := rfl
@[simp] theorem retire_opb (s : State) : (retire s).opb = s.opb := rfl
@[simp] theorem retire_opc (s : State) : (retire s).opc = s.opc := rfl
@[simp] theorem retire_poly (s : State) : (retire s).poly = s.poly := rfl
@[simp] theorem retire_attach (s : State) : (retire s).attach = s.attach := rfl
@[simp] theorem retire_cfgVariant (s : State) : (retire s).cfgVariant = s.cfgVariant := rfl
@[simp] theorem retire_cfgBchEn (s : State) : (retire s).cfgBchEn = s.cfgBchEn := rfl
@[simp] theorem retire_invalid (s : State) : (retire s).invalid = s.invalid := rfl
@[simp] theorem retire_cmdErr (s : State) : (retire s).cmdErr = s.cmdErr := rfl
@[simp] theorem retire_asmState (s : State) : (retire s).asmState = s.asmState := rfl
@[simp] theorem retire_result (s : State) : (retire s).result = s.result := rfl
@[simp] theorem retire_frame (s : State) : (retire s).frame = s.frame := rfl
@[simp] theorem retire_userBuf (s : State) : (retire s).userBuf = s.userBuf := rfl
@[simp] theorem retire_actVariant (s : State) : (retire s).actVariant = s.actVariant := rfl
@[simp] theorem retire_actBch (s : State) : (retire s).actBch = s.actBch := rfl
@[simp] theorem retire_pend (s : State) : (retire s).pend = none := rfl
@[simp] theorem retire_latencyLeft (s : State) : (retire s).latencyLeft = 0 := rfl
@[simp] theorem retire_issued (s : State) : (retire s).issued = s.issued := rfl
@[simp] theorem retire_input (s : State) : (retire s).input = s.input := rfl
@[simp] theorem retire_reads (s : State) : (retire s).reads = s.reads := rfl
@[simp] theorem activeLayout_retire (s : State) : activeLayout (retire s) = activeLayout s := rfl
@[simp] theorem flen_retire (s : State) : flen (retire s) = flen s := rfl
@[simp] theorem frameBits_retire (s : State) : frameBits (retire s) = frameBits s := rfl

@[simp] theorem tick_opa (s : State) : (tick s).opa = s.opa := rfl
@[simp] theorem tick_opb (s : State) : (tick s).opb = s.opb := rfl
@[simp] theorem tick_opc (s : State) : (tick s).opc = s.opc := rfl
@[simp] theorem tick_poly (s : State) : (tick s).poly = s.poly := rfl
@[simp] theorem tick_attach (s : State) : (tick s).attach = s.attach := rfl
@[simp] theorem tick_cfgVariant (s : State) : (tick s).cfgVariant = s.cfgVariant := rfl
@[simp] theorem tick_cfgBchEn (s : State) : (tick s).cfgBchEn = s.cfgBchEn := rfl
@[simp] theorem tick_invalid (s : State) : (tick s).invalid = s.invalid := rfl
@[simp] theorem tick_cmdErr (s : State) : (tick s).cmdErr = s.cmdErr := rfl
@[simp] theorem tick_asmState (s : State) : (tick s).asmState = s.asmState := rfl
@[simp] theorem tick_result (s : State) : (tick s).result = s.result := rfl
@[simp] theorem tick_frame (s : State) : (tick s).frame = s.frame := rfl
@[simp] theorem tick_userBuf (s : State) : (tick s).userBuf = s.userBuf := rfl
@[simp] theorem tick_actVariant (s : State) : (tick s).actVariant = s.actVariant := rfl
@[simp] theorem tick_actBch (s : State) : (tick s).actBch = s.actBch := rfl
@[simp] theorem tick_pend (s : State) : (tick s).pend = s.pend := rfl
@[simp] theorem tick_latencyLeft (s : State) : (tick s).latencyLeft = if busy s then s.latencyLeft - 1 else s.latencyLeft := rfl
@[simp] theorem tick_issued (s : State) : (tick s).issued = s.issued := rfl
@[simp] theorem tick_input (s : State) : (tick s).input = s.input := rfl
@[simp] theorem tick_reads (s : State) : (tick s).reads = s.reads := rfl
@[simp] theorem activeLayout_tick (s : State) : activeLayout (tick s) = activeLayout s := rfl
@[simp] theorem flen_tick (s : State) : flen (tick s) = flen s := rfl
@[simp] theorem frameBits_tick (s : State) : frameBits (tick s) = frameBits s := rfl

@[simp] theorem issue_opa (c : Word) (s : State) : (issue c s).opa = s.opa := rfl
@[simp] theorem issue_opb (c : Word) (s : State) : (issue c s).opb = s.opb := rfl
@[simp] theorem issue_opc (c : Word) (s : State) : (issue c s).opc = s.opc := rfl
@[simp] theorem issue_poly (c : Word) (s : State) : (issue c s).poly = s.poly := rfl
@[simp] theorem issue_attach (c : Word) (s : State) : (issue c s).attach = s.attach := rfl
@[simp] theorem issue_cfgVariant (c : Word) (s : State) : (issue c s).cfgVariant = s.cfgVariant := rfl
@[simp] theorem issue_cfgBchEn (c : Word) (s : State) : (issue c s).cfgBchEn = s.cfgBchEn := rfl
@[simp] theorem issue_invalid (c : Word) (s : State) : (issue c s).invalid = s.invalid := rfl
@[simp] theorem issue_cmdErr (c : Word) (s : State) : (issue c s).cmdErr = s.cmdErr := rfl
@[simp] theorem issue_asmState (c : Word) (s : State) : (issue c s).asmState = s.asmState := rfl
@[simp] theorem issue_result (c : Word) (s : State) : (issue c s).result = s.result := rfl
@[simp] theorem issue_frame (c : Word) (s : State) : (issue c s).frame = s.frame := rfl
@[simp] theorem issue_userBuf (c : Word) (s : State) : (issue c s).userBuf = s.userBuf := rfl
@[simp] theorem issue_actVariant (c : Word) (s : State) : (issue c s).actVariant = s.actVariant := rfl
@[simp] theorem issue_actBch (c : Word) (s : State) : (issue c s).actBch = s.actBch := rfl
@[simp] theorem issue_pend (c : Word) (s : State) : (issue c s).pend = some c := rfl
@[simp] theorem issue_latencyLeft (c : Word) (s : State) : (issue c s).latencyLeft = Config.cmdLatency s.issued := rfl
@[simp] theorem issue_issued (c : Word) (s : State) : (issue c s).issued = s.issued + 1 := rfl
@[simp] theorem issue_input (c : Word) (s : State) : (issue c s).input = s.input := rfl
@[simp] theorem issue_reads (c : Word) (s : State) : (issue c s).reads = s.reads := rfl
@[simp] theorem activeLayout_issue (c : Word) (s : State) : activeLayout (issue c s) = activeLayout s := rfl
@[simp] theorem flen_issue (c : Word) (s : State) : flen (issue c s) = flen s := rfl
@[simp] theorem frameBits_issue (c : Word) (s : State) : frameBits (issue c s) = frameBits s := rfl

@[simp] theorem writeCfg_opa (v : Word) (s : State) : (writeCfg v s).opa = s.opa := rfl
@[simp] theorem writeCfg_opb (v : Word) (s : State) : (writeCfg v s).opb = s.opb := rfl
@[simp] theorem writeCfg_opc (v : Word) (s : State) : (writeCfg v s).opc = s.opc := rfl
@[simp] theorem writeCfg_poly (v : Word) (s : State) : (writeCfg v s).poly = s.poly := rfl
@[simp] theorem writeCfg_attach (v : Word) (s : State) : (writeCfg v s).attach = v.getLsbD 0 := rfl
@[simp] theorem writeCfg_cfgVariant (v : Word) (s : State) : (writeCfg v s).cfgVariant = variantWrite s.cfgVariant (v.toNat / 2 % 4) := rfl
@[simp] theorem writeCfg_cfgBchEn (v : Word) (s : State) : (writeCfg v s).cfgBchEn = v.getLsbD 3 := rfl
@[simp] theorem writeCfg_invalid (v : Word) (s : State) : (writeCfg v s).invalid = s.invalid := rfl
@[simp] theorem writeCfg_cmdErr (v : Word) (s : State) : (writeCfg v s).cmdErr = s.cmdErr := rfl
@[simp] theorem writeCfg_asmState (v : Word) (s : State) : (writeCfg v s).asmState = s.asmState := rfl
@[simp] theorem writeCfg_result (v : Word) (s : State) : (writeCfg v s).result = s.result := rfl
@[simp] theorem writeCfg_frame (v : Word) (s : State) : (writeCfg v s).frame = s.frame := rfl
@[simp] theorem writeCfg_userBuf (v : Word) (s : State) : (writeCfg v s).userBuf = s.userBuf := rfl
@[simp] theorem writeCfg_actVariant (v : Word) (s : State) : (writeCfg v s).actVariant = s.actVariant := rfl
@[simp] theorem writeCfg_actBch (v : Word) (s : State) : (writeCfg v s).actBch = s.actBch := rfl
@[simp] theorem writeCfg_pend (v : Word) (s : State) : (writeCfg v s).pend = s.pend := rfl
@[simp] theorem writeCfg_latencyLeft (v : Word) (s : State) : (writeCfg v s).latencyLeft = s.latencyLeft := rfl
@[simp] theorem writeCfg_issued (v : Word) (s : State) : (writeCfg v s).issued = s.issued := rfl
@[simp] theorem writeCfg_input (v : Word) (s : State) : (writeCfg v s).input = s.input := rfl
@[simp] theorem writeCfg_reads (v : Word) (s : State) : (writeCfg v s).reads = s.reads := rfl
@[simp] theorem activeLayout_writeCfg (v : Word) (s : State) : activeLayout (writeCfg v s) = activeLayout s := rfl
@[simp] theorem flen_writeCfg (v : Word) (s : State) : flen (writeCfg v s) = flen s := rfl
@[simp] theorem frameBits_writeCfg (v : Word) (s : State) : frameBits (writeCfg v s) = frameBits s := rfl

theorem flen_eq_frameLength (s : State) : flen s = frameLength s.actVariant s.actBch := rfl

/-- FLEN is 27 or 31 (10_state.md R33). -/
theorem flen_cases (s : State) : flen s = 27 ∨ flen s = 31 := by
  rw [flen_eq_frameLength]
  cases s.actVariant <;> cases s.actBch <;> decide

/-- Every frame bit lies in the 32 bytes of FRAME (10_state.md R35). -/
theorem frameBits_le (s : State) : frameBits s ≤ 248 := by
  unfold frameBits
  rcases flen_cases s with h | h <;> omega

theorem frameBits_eq (s : State) : frameBits s = 8 * flen s := rfl

/-- The active capacity is the one of 43_frame_assembler.md R193. -/
theorem capBytes_eq (s : State) : capBytes (activeLayout s) = (specCapacity s.actVariant s.actBch).1 := by
  unfold activeLayout
  cases s.actVariant <;> cases s.actBch <;> decide

theorem hasNibble_eq (s : State) : hasNibble (activeLayout s) = (specCapacity s.actVariant s.actBch).2 := by
  unfold activeLayout
  cases s.actVariant <;> cases s.actBch <;> decide

/-- The active CRC16 offset is the one of 43_frame_assembler.md R194. -/
theorem crcOff_eq (s : State) : crcOff (activeLayout s) = specCrcOff s.actVariant := by
  unfold activeLayout
  cases s.actVariant <;> cases s.actBch <;> decide

@[simp] theorem populate_populate (a : AsmState) : populate (populate a) = populate a := by cases a <;> rfl

theorem populate_ne_empty (a : AsmState) : populate a ≠ .empty := by cases a <;> decide

theorem stateAfterWrite_eq (s : State) : stateAfterWrite s = populate s.asmState := by
  unfold stateAfterWrite
  cases s.asmState <;> rfl

end Sys2Proof.Machine
end

