-- ==== Sys2Proof/Laws/Ops.lean ====
section
/-! SUPPORT. What each shared operation and each body can do, said once: if it answers next, then one of these cases
holds; and when it answers what. -/

namespace Sys2Proof.Machine

/-! ## The prologue -/

theorem finish_next {a : Answer} {t : State} (h : finish a = .next t) : ∃ u, a = .next u ∧ t = flagsOk u := by
  cases a with
  | next u =>
    simp only [finish, Host.Outcome.next.injEq] at h
    exact ⟨u, rfl, h.symm⟩
  | fault f => cases h
  | refused r => cases h

theorem finish_fault {a : Answer} {f : Fault} (h : finish a = .fault f) : a = .fault f := by
  cases a with
  | next u => cases h
  | fault g => exact h
  | refused r => cases h

theorem finish_refused {a : Answer} {r : Refusal} (h : finish a = .refused r) : a = .refused r := by
  cases a with
  | next u => cases h
  | fault g => cases h
  | refused q => exact h

/-- The three ways a command completes (60_exceptions.md R220, R229). -/
theorem runCommand_cases {r : Bool} {start : Option Nat} {body : Nat → State → Answer} {s t : State}
    (h : runCommand r start body s = .next t) :
    (start = none ∧ t = outcomeCmdErr s) ∨
      (∃ p, start = some p ∧ s.attach = false ∧ t = outcomeInvalid r s) ∨
        ∃ p u, start = some p ∧ s.attach = true ∧ body p s = .next u ∧ t = flagsOk u := by
  unfold runCommand at h
  cases start with
  | none =>
    simp only [Host.Outcome.next.injEq] at h
    exact .inl ⟨rfl, h.symm⟩
  | some p =>
    cases ha : s.attach with
    | false =>
      simp only [ha, Bool.false_eq_true, if_false, Host.Outcome.next.injEq] at h
      exact .inr (.inl ⟨p, rfl, rfl, h.symm⟩)
    | true =>
      simp only [ha, if_true] at h
      obtain ⟨u, hu, ht⟩ := finish_next h
      exact .inr (.inr ⟨p, u, rfl, rfl, hu, ht⟩)

/-- A command faults only where its body does, and only past the ATTACH check. -/
theorem runCommand_fault {r : Bool} {start : Option Nat} {body : Nat → State → Answer} {s : State} {f : Fault}
    (h : runCommand r start body s = .fault f) : ∃ p, start = some p ∧ s.attach = true ∧ body p s = .fault f := by
  unfold runCommand at h
  cases start with
  | none => cases h
  | some p =>
    cases ha : s.attach with
    | false => simp [ha] at h
    | true =>
      simp only [ha, if_true] at h
      exact ⟨p, rfl, rfl, finish_fault h⟩

theorem runCommand_absent (r : Bool) (body : Nat → State → Answer) (s : State) :
    runCommand r none body s = .next (outcomeCmdErr s) := rfl

theorem runCommand_detached (r : Bool) (p : Nat) (body : Nat → State → Answer) {s : State} (h : s.attach = false) :
    runCommand r (some p) body s = .next (outcomeInvalid r s) := by
  simp [runCommand, h]

theorem runCommand_attached (r : Bool) (p : Nat) (body : Nat → State → Answer) {s : State} (h : s.attach = true) :
    runCommand r (some p) body s = finish (body p s) := by
  simp [runCommand, h]

/-! ## The bodies -/

/-- What writing consecutive fields does when it fits (42_field_encoder.md R160). -/
theorem encodeFields_fits {fields : List (Nat × Nat)} {p : Nat} {s : State} (h : p + totalWidth fields ≤ frameBits s) :
    encodeFields fields p s =
      .next (setResult (positionWord (p + totalWidth fields - 1)) (frameWritten
        (setFrame (putFields s.frame p fields) s))) := by
  unfold encodeFields
  rw [if_neg (by omega)]

theorem encodeFields_overruns {fields : List (Nat × Nat)} {p : Nat} {s : State} (h : frameBits s < p + totalWidth fields) :
    encodeFields fields p s = .fault .layoutWrite := by
  unfold encodeFields
  rw [if_pos h]

theorem encodeFields_cases {fields : List (Nat × Nat)} {p : Nat} {s t : State} (h : encodeFields fields p s = .next t) :
    p + totalWidth fields ≤ frameBits s ∧
      t = setResult (positionWord (p + totalWidth fields - 1)) (frameWritten (setFrame (putFields s.frame p fields) s)) := by
  by_cases hfit : p + totalWidth fields ≤ frameBits s
  · rw [encodeFields_fits hfit, Host.Outcome.next.injEq] at h
    exact ⟨hfit, h.symm⟩
  · rw [encodeFields_overruns (by omega)] at h
    cases h

theorem bodySetBit_cases {p : Nat} {s t : State} (h : bodySetBit p s = .next t) :
    p < frameBits s ∧ t = frameWritten (setFrame (putBit s.frame p (opaBit s)) s) := by
  unfold bodySetBit at h
  by_cases hp : p ≥ frameBits s
  · rw [if_pos hp] at h
    cases h
  · rw [if_neg hp, Host.Outcome.next.injEq] at h
    exact ⟨by omega, h.symm⟩

/-- SETVALUE with a width above 0 is a frame write; with width 0 it writes RESULT alone (40_bit_packer.md R126, R127). -/
theorem bodySetValue_cases {w p : Nat} {s t : State} (h : bodySetValue w p s = .next t) :
    (0 < w ∧ p + w ≤ frameBits s ∧
        t = setResult (positionWord ((p : Int) + w - 1)) (frameWritten (setFrame (putField s.frame p w s.opa.toNat) s))) ∨
      w = 0 ∧ t = setResult (positionWord ((p : Int) - 1)) s := by
  unfold bodySetValue at h
  by_cases hbad : w > 0 ∧ p + w > frameBits s
  · rw [if_pos hbad] at h
    cases h
  · rw [if_neg hbad, Host.Outcome.next.injEq] at h
    by_cases hw : w > 0
    · rw [if_pos hw] at h
      exact .inl ⟨hw, by omega, h.symm⟩
    · obtain rfl : w = 0 := by omega
      simp only [Nat.lt_irrefl, if_false, gt_iff_lt] at h
      refine .inr ⟨rfl, h.symm.trans ?_⟩
      simp [putField, setFrame]

theorem bodyCalc_cases {W ptr : Nat} {s t : State} (h : bodyCalc W ptr s = .next t) :
    0 ≤ sint32 s.opa ∧ ptr + ceil8 (sint32 s.opa).toNat ≤ flen s ∧
      t = setResult ((chk s.frame ptr (sint32 s.opa).toNat (s.poly.setWidth W)).setWidth 32) s := by
  unfold bodyCalc at h
  by_cases hneg : sint32 s.opa < 0
  · rw [if_pos hneg] at h
    cases h
  · rw [if_neg hneg] at h
    by_cases hfar : ptr + ceil8 (sint32 s.opa).toNat > flen s
    · rw [if_pos hfar] at h
      cases h
    · rw [if_neg hfar, Host.Outcome.next.injEq] at h
      exact ⟨by omega, by omega, h.symm⟩

theorem bodyClean_cases {p : Nat} {s t : State} (h : bodyClean p s = .next t) :
    t = { s with frame := [], actVariant := s.cfgVariant, actBch := s.cfgBchEn, asmState := .empty } := by
  rw [bodyClean, Host.Outcome.next.injEq] at h
  exact h.symm

theorem bodySetCrc16_cases {p : Nat} {s t : State} (h : bodySetCrc16 p s = .next t) :
    p + 16 ≤ frameBits s ∧
      t = setResult ((frameCrc16 s (frameBits s)).setWidth 32)
        (sealFrame (setFrame (putField s.frame p 16 (frameCrc16 s (frameBits s)).toNat) s)) := by
  unfold bodySetCrc16 at h
  by_cases hp : p + 16 > frameBits s
  · rw [if_pos hp] at h
    cases h
  · rw [if_neg hp, Host.Outcome.next.injEq] at h
    exact ⟨by omega, h.symm⟩

/-- The frame of SETCRC16BCH32 between its two writes: the CRC16 at CrcOff (43_frame_assembler.md R206, R207). -/
theorem bodySetCrc16Bch32_cases {b : Nat} {s t : State} (h : bodySetCrc16Bch32 b s = .next t) :
    b + 32 ≤ frameBits s ∧ ∃ m,
      m = putField s.frame (crcOff (activeLayout s)) 16 (frameCrc16 s (frameBits s - 32)).toNat ∧
        t = setResult (bch32 m 0 (frameBits s - 32))
          (sealFrame (setFrame (putField m b 32 (bch32 m 0 (frameBits s - 32)).toNat) s)) := by
  unfold bodySetCrc16Bch32 at h
  by_cases hb : b + 32 > frameBits s
  · rw [if_pos hb] at h
    cases h
  · rw [if_neg hb, Host.Outcome.next.injEq] at h
    exact ⟨by omega, _, rfl, h.symm⟩

/-! ## The engine and the host -/

/-- The engine step completes its word and clears PEND (70_reset_and_hazards.md R255). -/
theorem engineStep_next {c : Word} {s t : State} (h : engineStep c s = .next t) :
    ∃ u, completeCommand c s = .next u ∧ t = retire u := by
  unfold engineStep at h
  cases hc : completeCommand c s with
  | next u =>
    simp only [hc, Host.Outcome.next.injEq] at h
    exact ⟨u, rfl, h.symm⟩
  | fault f => simp [hc] at h
  | refused r => simp [hc] at h

/-- A word completes as a command error or as the command it decodes to (60_exceptions.md R220). -/
theorem completeCommand_cases (c : Word) (s : State) :
    ((∃ why, decode c = .rejected why) ∧ completeCommand c s = .next (outcomeCmdErr s)) ∨
      ∃ i, decode c = .command i ∧ completeCommand c s = exec i s := by
  unfold completeCommand
  cases hd : decode c with
  | rejected why => exact .inl ⟨⟨why, rfl⟩, rfl⟩
  | command i => exact .inr ⟨i, rfl, rfl⟩

/-- Whose step it is (00_scope.md R14, 70_reset_and_hazards.md R255). -/
theorem step_cases (s : State) :
    (∃ c, s.pend = some c ∧ engineReady s = true ∧ step s = engineStep c s) ∨
      ((s.pend = none ∨ engineReady s = false) ∧ step s = hostTurn s) := by
  unfold step
  cases hp : s.pend with
  | none => exact .inr ⟨.inl rfl, rfl⟩
  | some c =>
    cases hr : engineReady s with
    | true => exact .inl ⟨c, rfl, rfl, by simp⟩
    | false => exact .inr ⟨.inr rfl, by simp⟩

theorem hostRead_next {offset : BitVec 8} {bits : Nat} {s t : State} (h : hostRead offset bits s = .next t) :
    accessDefined offset bits = true ∧ (busy s = true → hostReg offset.toNat = .status) ∧
      t = tick { s with reads := readReg (hostReg offset.toNat) s :: s.reads } := by
  unfold hostRead at h
  by_cases hd : accessDefined offset bits = true
  · rw [if_pos hd] at h
    by_cases hb : busy s = true ∧ hostReg offset.toNat ≠ .status
    · rw [if_pos hb] at h
      cases h
    · rw [if_neg hb, Host.Outcome.next.injEq] at h
      exact ⟨hd, fun hbusy => not_not.mp fun hne => hb ⟨hbusy, hne⟩, h.symm⟩
  · rw [if_neg hd] at h
    cases h

theorem hostWrite_next {offset : BitVec 8} {bits : Nat} {v : Word} {s t : State}
    (h : hostWrite offset bits v s = .next t) :
    accessDefined offset bits = true ∧ busy s = false ∧ t = writeReg (hostReg offset.toNat) v s := by
  unfold hostWrite at h
  by_cases hd : accessDefined offset bits = true
  · rw [if_pos hd] at h
    cases hb : busy s with
    | true => simp [hb] at h
    | false =>
      simp only [hb, Bool.false_eq_true, if_false, Host.Outcome.next.injEq] at h
      exact ⟨hd, rfl, h.symm⟩
  · rw [if_neg hd] at h
    cases h

/-- The FRAME window words are the words 0..7 (20_memory.md R60, R61). -/
theorem hostReg_frame_lt {offset k : Nat} (h : hostReg offset = .frame k) : k < 8 := by
  unfold hostReg at h
  iterate 9 (split at h; · cases h)
  split at h
  · simp only [HostReg.frame.injEq] at h
    omega
  · split at h <;> cases h

/-- The USERBUF window words are the words 0..7 (20_memory.md R60, R61). -/
theorem hostReg_userBuf_lt {offset k : Nat} (h : hostReg offset = .userBuf k) : k < 8 := by
  unfold hostReg at h
  iterate 9 (split at h; · cases h)
  split at h
  · cases h
  · split at h
    · simp only [HostReg.userBuf.injEq] at h
      omega
    · cases h

end Sys2Proof.Machine
end

