-- ==== Sys2Proof/Laws/PerInstr.lean ====
section
/-! SUPPORT. A property of every command form as syntax, one lemma per constructor: the word of a well-formed form lies in
the form's own row of the opcode map (30_encoding.md R96, R100). -/

namespace Sys2Proof

/-- A number below `2^k` shifted up by `s` places and joined to a lower part, as OR of the fields: `enc` is the rule's
`(WIDTH << 16) OR (POS << 8) OR (TBL << 6) OR OP` (30_encoding.md R90). -/
theorem enc_eq_or {op tbl pos width : Nat} (ho : op < 2 ^ 6) (ht : tbl < 2) (hp : pos < 2 ^ 8) :
    enc op tbl pos width = BitVec.ofNat 32 (width <<< 16 ||| pos <<< 8 ||| tbl <<< 6 ||| op) := by
  have h1 : width <<< 16 ||| pos <<< 8 = width * 2 ^ 16 + pos * 2 ^ 8 := by
    rw [← Nat.shiftLeft_add_eq_or_of_lt (by rw [Nat.shiftLeft_eq]; omega), Nat.shiftLeft_eq, Nat.shiftLeft_eq]
  have h2 : (width * 2 ^ 8 + pos) <<< 8 = width * 2 ^ 16 + pos * 2 ^ 8 := by
    rw [Nat.shiftLeft_eq]
    omega
  have h3 : (width * 2 ^ 8 + pos) <<< 8 ||| tbl <<< 6 = width * 2 ^ 16 + pos * 2 ^ 8 + tbl * 2 ^ 6 := by
    rw [← Nat.shiftLeft_add_eq_or_of_lt (by rw [Nat.shiftLeft_eq]; omega), h2, Nat.shiftLeft_eq]
  have h4 : (width * 2 ^ 10 + pos * 2 ^ 2 + tbl) <<< 6 = width * 2 ^ 16 + pos * 2 ^ 8 + tbl * 2 ^ 6 := by
    rw [Nat.shiftLeft_eq]
    omega
  rw [h1, ← h2, h3, ← h4, ← Nat.shiftLeft_add_eq_or_of_lt ho, h4]
  rfl

namespace Laws.EncodeRow

/-- The word of a well-formed form matches the row of the form. -/
def Statement (i : Instr) : Prop := i.wellFormed = true → (opcodeRow i).matchesWord (encode i) = true

/-- Every POS lies outside a mask that keeps all but POS. -/
theorem masked_pos (pos : Nat) (hp : pos < 256) (rest : Nat) (h : rest ∈ [0x02, 0x200003, 0x08, 0x09, 0x0A, 0x0B, 0x100010,
    0x200010, 0x11, 0x12]) : BitVec.ofNat 32 (rest + pos * 2 ^ 8) &&& 0xFFFF00FF = BitVec.ofNat 32 rest := by
  have all : ∀ p : Fin 256, ∀ r ∈ [0x02, 0x200003, 0x08, 0x09, 0x0A, 0x0B, 0x100010, 0x200010, 0x11, 0x12],
      BitVec.ofNat 32 (r + p.val * 2 ^ 8) &&& 0xFFFF00FF = BitVec.ofNat 32 r := by decide +kernel
  exact all ⟨pos, hp⟩ rest h

/-- A form with the one operand POS matches its row. -/
theorem matches_pos {pos op width : Nat} (hp : posFits pos = true)
    (h : op + width * 2 ^ 16 ∈ [0x02, 0x200003, 0x08, 0x09, 0x0A, 0x0B, 0x100010, 0x200010, 0x11, 0x12]) :
    (⟨BitVec.ofNat 32 (op + width * 2 ^ 16), 0xFFFF00FF⟩ : OpcodeRow).matchesWord (enc op 0 pos width) = true := by
  have := masked_pos pos (by simpa [posFits] using hp) _ h
  unfold OpcodeRow.matchesWord enc
  rw [show width * 2 ^ 16 + pos * 2 ^ 8 + 0 * 2 ^ 6 + op = op + width * 2 ^ 16 + pos * 2 ^ 8 by omega, this]
  exact beq_self_eq_true _

theorem setValue_all : ∀ (p : Fin 256) (w : Fin 32),
    (opcodeRow (.setValue 0 0)).matchesWord (enc 3 0 p.val w.val) = true := by decide +kernel

theorem clean : Statement .clean := fun _ => rfl

theorem setBit (pos : Nat) : Statement (.setBit pos) := fun h => matches_pos h (by decide)

theorem setValue (pos width : Nat) : Statement (.setValue pos width) := fun h => by
  simp only [Instr.wellFormed, posFits, widthFits, Bool.and_eq_true, decide_eq_true_eq] at h
  exact setValue_all ⟨pos, h.1⟩ ⟨width, h.2⟩

theorem setValue32 (pos : Nat) : Statement (.setValue32 pos) := fun h => matches_pos h (by decide)

theorem setAcq (pos : Nat) : Statement (.setAcq pos) := fun h => matches_pos h (by decide)

theorem setAcqT : Statement .setAcqT := fun _ => rfl

theorem setDate (pos : Nat) : Statement (.setDate pos) := fun h => matches_pos h (by decide)

theorem setDateT : Statement .setDateT := fun _ => rfl

theorem setLoc (pos : Nat) : Statement (.setLoc pos) := fun h => matches_pos h (by decide)

theorem setLocT : Statement .setLocT := fun _ => rfl

theorem setUser (pos : Nat) : Statement (.setUser pos) := fun h => matches_pos h (by decide)

theorem setUserT : Statement .setUserT := fun _ => rfl

theorem calc16 (pos : Nat) : Statement (.calc16 pos) := fun h => matches_pos h (by decide)

theorem calc32 (pos : Nat) : Statement (.calc32 pos) := fun h => matches_pos h (by decide)

theorem setCrc16 (pos : Nat) : Statement (.setCrc16 pos) := fun h => matches_pos h (by decide)

theorem setCrc16T : Statement .setCrc16T := fun _ => rfl

theorem setCrc16Bch32 (pos : Nat) : Statement (.setCrc16Bch32 pos) := fun h => matches_pos h (by decide)

theorem setCrc16Bch32T : Statement .setCrc16Bch32T := fun _ => rfl

end Laws.EncodeRow

end Sys2Proof
end

