-- ==== Sys2Proof/Laws/Step.lean ====
section
/-! SUPPORT. Runs of the machine, one step at a time, and the numbers in the STATUS and CFG words. -/

namespace Sys2Proof.Machine

/-- A run of any machine goes on from the next state. -/
theorem run_next (M : Host.Core) {s t : M.State} (k : Nat) (h : M.step s = .next t) : M.run (k + 1) s = M.run k t := by
  rw [Host.Core.run, h]

/-- A run of any machine ends at a fault. -/
theorem run_fault (M : Host.Core) {s : M.State} {f : M.Fault} (k : Nat) (h : M.step s = .fault f) :
    M.run (k + 1) s = .fault f := by
  rw [Host.Core.run, h]

/-- A run of one step is the step. -/
theorem run_one (M : Host.Core) (s : M.State) : M.run 1 s = M.step s := by
  rw [Host.Core.run]
  cases M.step s <;> simp [Host.Core.run]

theorem core_run_zero (s : State) : core.run 0 s = .next s := by
  exact Host.Core.run.eq_1 core s

theorem core_run_next {s t : State} (k : Nat) (h : step s = .next t) : core.run (k + 1) s = core.run k t :=
  run_next core k h

theorem core_run_fault {s : State} {f : Fault} (k : Nat) (h : step s = .fault f) : core.run (k + 1) s = .fault f :=
  run_fault core k h

theorem core_run_one (s : State) : core.run 1 s = step s := run_one core s

theorem asmStateCode_lt (a : AsmState) : asmStateCode a < 3 := by cases a <;> decide

theorem variantCode_lt (v : Variant) : variantCode v < 3 := by cases v <;> decide

/-- The STATUS word as a number (10_state.md R30). -/
theorem statusWord_toNat (s : State) :
    (statusWord s).toNat = (busy s).toNat + 2 * s.invalid.toNat + 4 * s.cmdErr.toNat + 8 * asmStateCode s.asmState +
      32 * variantCode s.actVariant + 128 * s.actBch.toNat := by
  have := asmStateCode_lt s.asmState
  have := variantCode_lt s.actVariant
  have := Bool.toNat_le (busy s)
  have := Bool.toNat_le s.invalid
  have := Bool.toNat_le s.cmdErr
  have := Bool.toNat_le s.actBch
  rw [statusWord, BitVec.toNat_ofNat, Nat.mod_eq_of_lt (by omega)]

/-- The CFG word as a number (10_state.md R26). -/
theorem cfgWord_toNat (s : State) :
    (cfgWord s).toNat = s.attach.toNat + 2 * variantCode s.cfgVariant + 8 * s.cfgBchEn.toNat := by
  have := variantCode_lt s.cfgVariant
  have := Bool.toNat_le s.attach
  have := Bool.toNat_le s.cfgBchEn
  rw [cfgWord, BitVec.toNat_ofNat, Nat.mod_eq_of_lt (by omega)]

/-- A bit of a word from the word as a number. -/
theorem getLsbD_eq_mod (w : Word) (i : Nat) : w.getLsbD i = decide (w.toNat / 2 ^ i % 2 = 1) := by
  rw [BitVec.getLsbD, Nat.testBit_eq_decide_div_mod_eq]

end Sys2Proof.Machine
end

