-- ==== Sys2Proof/Tests/Slice0.lean ====
section
/-! SUPPORT. Tests of the model: ill-formed terms the check refuses, words written out from the spec's encodings, the
spec's own vectors one step at a time (95_test_vectors.md), and for every statement with hypotheses a concrete case
that meets them. Expected values come from spec/95_test_vectors.md and from the rules named. -/

namespace Sys2Proof.Machine.Tests

open Sys2Proof Sys2Proof.Machine

/-! ## Helpers -/

/-- An idle block after reset with a frame attached and a configuration latched. -/
def attachedAs (v : Variant) (b : Bool) : State :=
  { State.reset with attach := true, cfgVariant := v, cfgBchEn := b, actVariant := v, actBch := b }

/-- The buffer that holds the bytes given from index `a` on. -/
def ofBytes : Nat → List Byte → Memory
  | _, [] => []
  | a, b :: rest => writeByte (ofBytes (a + 1) rest) a b

/-- `n` bytes of a buffer from index `a` on. -/
def bytesAt (m : Memory) (a n : Nat) : List Byte := (List.range n).map fun k => readByte m (a + k)

/-- The answer is a next state of which `p` holds. -/
def nextIs (a : Answer) (p : State → Bool) : Bool :=
  match a with
  | .next t => p t
  | .fault _ => false
  | .refused _ => false

/-- The answer is the fault given. -/
def faultIs (a : Answer) (f : Fault) : Bool :=
  match a with
  | .next _ => false
  | .fault g => g == f
  | .refused _ => false

/-- The answer is the refusal of a second bus agent. -/
def refusedIs (a : Answer) (r : Refusal) : Bool :=
  match a with
  | .next _ => false
  | .fault _ => false
  | .refused q => q == r

/-- The step that completes the command word `w`. -/
def complete (s : State) (w : Nat) : Answer := step (s.withFetchWord 32 w)

/-! ## WellFormed refuses every operand outside its field (30_encoding.md R93, R94, R100) -/

theorem test_wf_setBit : (Instr.setBit 256).wellFormed = false := by decide
theorem test_wf_setValue_pos : (Instr.setValue 256 5).wellFormed = false := by decide
theorem test_wf_setValue_width : (Instr.setValue 3 32).wellFormed = false := by decide
theorem test_wf_setValue32 : (Instr.setValue32 256).wellFormed = false := by decide
theorem test_wf_setAcq : (Instr.setAcq 256).wellFormed = false := by decide
theorem test_wf_setDate : (Instr.setDate 256).wellFormed = false := by decide
theorem test_wf_setLoc : (Instr.setLoc 256).wellFormed = false := by decide
theorem test_wf_setUser : (Instr.setUser 256).wellFormed = false := by decide
theorem test_wf_calc16 : (Instr.calc16 256).wellFormed = false := by decide
theorem test_wf_calc32 : (Instr.calc32 256).wellFormed = false := by decide
theorem test_wf_setCrc16 : (Instr.setCrc16 256).wellFormed = false := by decide
theorem test_wf_setCrc16Bch32 : (Instr.setCrc16Bch32 256).wellFormed = false := by decide
theorem test_encodeChecked_refuses : encodeChecked (.setBit 256) = none := by decide

/-! ## Decoding words written out from R90 and R96 (T-DEC-1, T-DEC-2, R105) -/

theorem test_decode_clean : decode 0b00000000000000000000000000000001 = .command .clean := by decide
theorem test_decode_setBit : decode 0b00000000000000000000011100000010 = .command (.setBit 7) := by decide
theorem test_decode_setValue : decode 0b00000000000101100010001100000011 = .command (.setValue 35 22) := by decide
theorem test_decode_setValue_31 : decode 0x001F0003 = .command (.setValue 0 31) := by decide
theorem test_decode_setValue32 : decode 0b00000000001000000000010000000011 = .command (.setValue32 4) := by decide
theorem test_decode_setAcq : decode 0b00000000000000000001000000001000 = .command (.setAcq 16) := by decide
theorem test_decode_setAcqT : decode 0b00000000000000000000000001001000 = .command .setAcqT := by decide
theorem test_decode_setDate : decode 0b00000000000000000001011100001001 = .command (.setDate 23) := by decide
theorem test_decode_setDateT : decode 0b00000000000000000000000001001001 = .command .setDateT := by decide
theorem test_decode_setLoc : decode 0b00000000000000000010011100001010 = .command (.setLoc 39) := by decide
theorem test_decode_setLocT : decode 0b00000000000000000000000001001010 = .command .setLocT := by decide
theorem test_decode_setUser : decode 0b00000000000000000101110000001011 = .command (.setUser 92) := by decide
theorem test_decode_setUserT : decode 0b00000000000000000000000001001011 = .command .setUserT := by decide
theorem test_decode_calc16 : decode 0b00000000000100000000001000010000 = .command (.calc16 2) := by decide
theorem test_decode_calc32 : decode 0b00000000001000000000000000010000 = .command (.calc32 0) := by decide
theorem test_decode_setCrc16 : decode 0b00000000000000000000000000010001 = .command (.setCrc16 0) := by decide
theorem test_decode_setCrc16T : decode 0b00000000000000000000000001010001 = .command .setCrc16T := by decide
theorem test_decode_setCrc16Bch32 : decode 0b00000000000000001101100000010010 = .command (.setCrc16Bch32 216) := by
  decide
theorem test_decode_setCrc16Bch32T : decode 0b00000000000000000000000001010010 = .command .setCrc16Bch32T := by decide

theorem test_reject_unassigned : decode 0x00000000 = .rejected .unassignedOp ∧ decode 0x0000003F = .rejected .unassignedOp := by
  decide
theorem test_reject_reserved : decode 0x00000080 = .rejected .reservedBits ∧ decode 0x00400001 = .rejected .reservedBits ∧
    decode 0x80000011 = .rejected .reservedBits := by decide
theorem test_reject_tbl : decode 0x00000041 = .rejected .tblNotAllowed ∧ decode 0x00100050 = .rejected .tblNotAllowed := by
  decide
theorem test_reject_tblWithPos : decode 0x00000148 = .rejected .tblWithPos := by decide
theorem test_reject_width : decode 0x00010702 = .rejected .widthNotZero := by decide
theorem test_reject_setValueWidth : decode 0x00210003 = .rejected .setValueWidth ∧
    decode 0x003F0003 = .rejected .setValueWidth := by decide
theorem test_reject_calcWidth : decode 0x00000010 = .rejected .calcWidth ∧ decode 0x00300010 = .rejected .calcWidth := by
  decide
theorem test_reject_cleanPos : decode 0x00000101 = .rejected .cleanPos := by decide

/-- The rows of the opcode map are disjoint: two of them differ in a bit that both look at (30_encoding.md R96). -/
theorem test_opcodeRows_disjoint :
    opcodeRows.Pairwise fun r r' => (r.pattern ^^^ r'.pattern) &&& r.mask &&& r'.mask ≠ 0 := by decide

theorem test_decodeTableWord : decodeTableWord 32 0x00040003 = some (.setValue 0 4) ∧ decodeTableWord 32 0x80 = none := by
  decide

theorem test_assemble : assemble "SETVALUE 240, 8".toList = some 0x0008F003 ∧ assemble "SETBIT 256".toList = none := by
  decide

/-! ## Bit packer (T-PK) -/

theorem test_setBit_msb_first : -- T-PK-1
    nextIs (complete { attachedAs .p false with opa := 1 } 0x00000702) fun t =>
      bytesAt t.frame 0 2 == [0x01, 0x00] && t.asmState == .populated && t.pend == none := by decide
theorem test_setBit_assigns : -- T-PK-3
    nextIs (complete { attachedAs .p false with frame := ofBytes 0 [0xFF] } 0x00000002) fun t =>
      bytesAt t.frame 0 1 == [0x7F] := by decide
theorem test_setBit_layout : -- T-PK-16, T-PK-17
    faultIs (complete (attachedAs .p false) 0x0000D802) .layoutWrite ∧
      nextIs (complete { attachedAs .p true with opa := 1 } 0x0000D802) fun t => readByte t.frame 27 == 0x80 := by decide
set_option maxRecDepth 8000 in
theorem test_setValue_field : -- T-PK-6
    nextIs (complete { attachedAs .p false with opa := 45000 } 0x00162303) fun t =>
      bytesAt t.frame 4 4 == [0x00, 0x57, 0xE4, 0x00] && t.result == 56 := by decide
theorem test_setValue_edges : -- T-PK-8, T-PK-15
    (nextIs (complete { attachedAs .p false with opa := 45000 } 0x00000003) fun t =>
      t.result == 0x0000FFFF && t.asmState == .empty && t.frame == [] && !t.invalid) ∧
    faultIs (complete (attachedAs .p false) 0x0011C803) .layoutWrite := by decide
set_option maxRecDepth 8000 in
theorem test_setValue32_field : -- T-PK-7
    nextIs (complete { attachedAs .p false with opa := 0xDEADBEEF } 0x00200403) fun t =>
      bytesAt t.frame 0 5 == [0x0D, 0xEA, 0xDB, 0xEE, 0xF0] && t.result == 35 := by decide

/-! ## Checksum engine (T-CHK) -/

set_option maxRecDepth 8000 in
theorem test_calc16 : -- T-CHK-7, T-CHK-11 (right-aligned domain)
    (nextIs (complete { attachedAs .p false with opa := 8, poly := 0x1021, frame := ofBytes 0 [0x80] } 0x00100010) fun t =>
      t.result == 0x00009188 && t.asmState == .empty) ∧
    nextIs (complete { attachedAs .p false with opa := 12, poly := 0x1021, frame := ofBytes 0 [0xFF, 0x12] } 0x00100010)
      fun t => t.result == 0x0000224D := by decide
theorem test_calc32 : -- T-CHK-18
    nextIs (complete { attachedAs .p false with opa := 8, poly := 0xEE5B42FD, frame := ofBytes 0 [0x80] } 0x00200010)
      fun t => t.result == 0x151D53D2 := by decide
set_option maxRecDepth 8000 in
theorem test_calc32_string : -- T-CHK-2
    chk (ofBytes 0 [0x31, 0x32, 0x33, 0x34, 0x35, 0x36, 0x37, 0x38, 0x39]) 0 72 polyBch32 = 0x0E7C650A := by decide
theorem test_calc16_undefined : -- T-CHK-22, T-CHK-23
    faultIs (complete { attachedAs .p false with opa := 0xFFFFFFFF } 0x00100010) .negativeLength ∧
      faultIs (complete { attachedAs .p false with opa := 64 } 0x00101410) .layoutRead := by decide

/-! ## Field encoders (T-ENC) -/

theorem test_setAcq : -- T-ENC-2
    nextIs (complete { attachedAs .p false with opa := 9 } 0x00000008) fun t =>
      bytesAt t.frame 0 1 == [0x20] && t.result == 2 := by decide
theorem test_setAcqT : -- T-ENC-4
    nextIs (complete { attachedAs .e false with opa := 1 } 0x00000048) fun t =>
      bytesAt t.frame 2 1 == [0x02] && t.result == 22 := by decide
set_option maxRecDepth 8000 in
theorem test_setDate : -- T-ENC-5
    nextIs (complete { attachedAs .p false with opa := 15, opb := 10, opc := 30 } 0x00001309) fun t =>
      bytesAt t.frame 2 3 == [0x0F, 0x53, 0xC0] && t.result == 34 := by decide
set_option maxRecDepth 8000 in
theorem test_setDateT : -- T-ENC-8
    nextIs (complete { attachedAs .e false with opa := 15, opb := 10, opc := 30 } 0x00000049) fun t =>
      bytesAt t.frame 2 3 == [0x00, 0xF5, 0x3C] && t.result == 38 := by decide
set_option maxRecDepth 8000 in
theorem test_setLoc : -- T-ENC-14
    nextIs (complete { attachedAs .p false with opa := 1800000, opb := BitVec.ofInt 32 (-900000), opc := 9739 } 0x0000000A)
      fun t => bytesAt t.frame 0 7 == [0x6D, 0xDD, 0x03, 0xB7, 0x74, 0x1F, 0xF8] && t.result == 52 := by decide
set_option maxRecDepth 8000 in
theorem test_setLocT : -- T-ENC-11
    nextIs (complete { attachedAs .p false with opa := 45000, opb := BitVec.ofInt 32 (-23000), opc := 120 } 0x0000004A)
      fun t => bytesAt t.frame 4 7 == [0x00, 0x57, 0xE4, 0x41, 0x67, 0x60, 0x3E] && t.result == 87 := by decide
theorem test_locationCodes : -- the code tables of 95_test_vectors.md section 2.4
    lonCode (-1) = 0x200001 ∧ lonCode (-2147483648) = 0x200000 ∧ latCode (-23000) = 0x1059D8 ∧ altCode (-600) = 10 ∧
      altCode 125 = 62 ∧ altCode 9740 = 0 := by decide
set_option maxRecDepth 8000 in
theorem test_setUser : -- T-ENC-18 from the positional form
    nextIs (complete { attachedAs .p true with opa := 2, userBuf := ofBytes 0 [0xAA, 0xBB], frame := ofBytes 13 [0xFF] }
      0x0000580B) fun t => bytesAt t.frame 11 3 == [0xAA, 0xBB, 0x00] && t.result == 215 := by decide
set_option maxRecDepth 8000 in
theorem test_setUserT_nibble : -- T-ENC-20, T-ENC-21
    (nextIs (complete { attachedAs .e true with opa := 16, userBuf := ofBytes 13 [0xFD, 0xFE, 0xFF] } 0x0000004B) fun t =>
      bytesAt t.frame 25 2 == [0xDF, 0xEF]) ∧
    nextIs (complete { attachedAs .e true with opa := 17, userBuf := ofBytes 13 [0xFD, 0xFE, 0xFF] } 0x0000004B) fun t =>
      bytesAt t.frame 25 2 == [0xDF, 0xE0] && t.result == 215 := by decide

/-! ## Frame assembler (T-ASM) -/

theorem test_clean : -- T-ASM-7
    nextIs (complete { attachedAs .p false with frame := ofBytes 0 [0x12], cfgVariant := .u, cfgBchEn := true, result := 7 }
      0x00000001) fun t =>
      t.frame == [] && statusWord t == 0x000000C0 && flen t == 31 && t.result == 7 := by decide
set_option maxRecDepth 16000 in
theorem test_setCrc16 : -- T-OUT-12
    nextIs (complete (attachedAs .p false) 0x00001011) fun t => statusWord t == 0x00000010 && t.result == 0 := by
  decide
set_option maxRecDepth 16000 in
theorem test_setCrc16T : -- T-ASM-4a
    nextIs (complete { attachedAs .e false with frame := ofBytes 0 [0x50, 0x00, 0x02] } 0x00000051) fun t =>
      bytesAt t.frame 0 3 == [0x58, 0xB6, 0x82] && t.result == 0x00008B68 := by decide
set_option maxRecDepth 20000 in
theorem test_setCrc16Bch32 : -- T-ASM-3
    nextIs (complete { attachedAs .p false with
        frame := ofBytes 2 [0x2F, 0x53, 0xC0, 0x57, 0xE4, 0x41, 0x67, 0x60, 0x3E, 0xAA, 0xBB] } 0x0000B812) fun t =>
      bytesAt t.frame 0 2 == [0x89, 0xE9] && t.result == 0x469B5A8B := by decide
set_option maxRecDepth 20000 in
theorem test_setCrc16Bch32T : -- T-ASM-1
    nextIs (complete { attachedAs .p true with
        frame := ofBytes 2 [0x2F, 0x53, 0xC0, 0x57, 0xE4, 0x41, 0x67, 0x60, 0x3E, 0xAA, 0xBB] } 0x00000052) fun t =>
      bytesAt t.frame 0 2 == [0x10, 0xEF] && bytesAt t.frame 27 5 == [0x29, 0x00, 0xE6, 0xD7, 0x00] &&
        statusWord t == 0x00000090 := by decide

/-! ## Outcomes (T-OUT) -/

theorem test_invalid_sentinel : -- T-OUT-3
    nextIs (complete { State.reset with opa := 1 } 0x00001008) fun t =>
      statusWord t == 0x00000002 && t.result == 0x0000FFFF && t.frame == [] := by decide
theorem test_commandError_unattached : -- T-OUT-8
    nextIs (complete State.reset 0x00000080) fun t => statusWord t == 0x00000004 && t.result == 0 := by decide
theorem test_commandError_absentField : -- T-DEC-1, last rows
    (nextIs (complete (attachedAs .u false) 0x00000048) fun t => statusWord t == 0x00000044) ∧
      nextIs (complete (attachedAs .p false) 0x00000052) fun t => statusWord t == 0x00000004 := by decide
theorem test_invalid_before_undefined : -- T-OUT-10
    nextIs (complete { State.reset with opa := 0xFFFFFFFF } 0x00100010) fun t => statusWord t == 0x00000002 := by decide
theorem test_cfg_write : -- section 2.6, host register vectors
    nextIs (step { State.reset with input := [.write 0x14 32 0xFFFFFFFF] }) fun t => cfgWord t == 0x00000009 := by decide
theorem test_access_while_busy : -- T-OUT-14
    faultIs (step { State.reset with pend := some 1, latencyLeft := 1, input := [.read 0x1C 32] }) .accessWhileBusy := by
  decide
theorem test_narrow_access : -- T-OUT-15
    faultIs (step { State.reset with input := [.read 0x18 16] }) .badHostAccess := by decide
theorem test_second_agent : -- 60_exceptions.md R227, U6
    refusedIs (step { State.reset with input := [.otherAgent] }) .secondBusAgent := by decide
theorem test_window_write : -- program P1, its second line
    nextIs (step { State.reset with input := [.write 0x80 32 0x31323334] }) fun t =>
      bytesAt t.frame 0 4 == [0x31, 0x32, 0x33, 0x34] && statusWord t == 0x00000008 := by decide

/-! ## Host programs (30_encoding.md R100, R104) -/

theorem test_program_refused : -- an operand outside its field, a window word above 7, a word that is none
    expandLine (.run (.setValue 256 3)) = none ∧ callEvents (.setValue 7 256 3) = none ∧
      expandLine (.rd (.frame 16) none) = none ∧ expandLine (.wr .reserved 1) = none := by decide
theorem test_program_expands : -- R104's second table, R105's word of CALC 2, 16
    expandProgram [.crc16 2 200, .rd .result (some 0x000010EF)] =
      some [.write 0x10 32 0x00001021, .write 0x04 32 200, .write 0x00 32 0x00100210, .waitReady, .read 0x1C 32] := by decide
theorem test_program_rawWord : -- program P5: `CMD 0x00000083` is a command error, not a refused line (log entry 20)
    expandLine (.cmdWord 0x00000083) = some [.write 0x00 32 0x00000083] ∧
      nextIs (complete (attachedAs .u false) 0x00000083) fun t => statusWord t == 0x00000044 := by decide
theorem test_program_expected : -- the `-> v` of R104
    programAgrees [.rd .status (some 0x80), .wait, .rd .flenr none] { State.reset with reads := [31, 0x80] } = true ∧
      programAgrees [.rd .status (some 0x80)] { State.reset with reads := [0x88] } = false ∧
      programAgrees [.rd .status none] State.reset = false := by decide

/-! ## Memory -/

theorem test_canonical : (ofBytes 3 [0x01, 0x00, 0x02] = [(3, 0x01), (5, 0x02)]) ∧
    writeByte (ofBytes 3 [0x01, 0x00, 0x02]) 3 0x00 = [(5, 0x02)] := by decide
theorem test_wf_refuses : Memory.wf [(3, 0x01), (2, 0x01)] = false ∧ Memory.wf [(3, 0x00)] = false ∧
    Memory.wf [(32, 0x01)] = false := by decide

/-! ## Witnesses: for each statement with hypotheses, a case that meets all of them -/

theorem witness_DecodeOfEncodeIsTheCommand :
    (Instr.setValue 255 31).wellFormed = true ∧ (Instr.setCrc16Bch32 255).wellFormed = true ∧
      Instr.setUserT.wellFormed = true := by decide
theorem witness_EncodeOfDecodeIsTheWord : decode 0x001FFF03 = .command (.setValue 255 31) := by decide
theorem witness_DecoderAcceptsExactlyTheOpcodeMap : ∃ (c : Word) (r : OpcodeRow), r ∈ opcodeRows ∧ c &&& r.mask = r.pattern :=
  ⟨0x0000FF02, ⟨0x00000002, 0xFFFF00FF⟩, by decide⟩
theorem witness_StepRunsThePendingCommand : ∃ (s : State) (c : Word) (i : Instr),
    s.pend = some c ∧ (s.latencyLeft = 0 ∨ s.input = []) ∧ decode c = .command i :=
  ⟨{ attachedAs .p false with pend := some 0x00000702 }, 0x00000702, .setBit 7, by decide⟩
theorem witness_StepRunsThePendingCommand_lateHost : ∃ (s : State) (c : Word) (i : Instr),
    s.pend = some c ∧ (s.latencyLeft = 0 ∨ s.input = []) ∧ decode c = .command i ∧ 0 < s.latencyLeft :=
  ⟨{ State.reset with pend := some 0x00000001, latencyLeft := 5 }, 0x00000001, .clean, by decide⟩
theorem witness_CmdWriteIssuesTheCommand : ∃ (s : State) (c : Word) (rest : List HostEvent),
    s.pend = none ∧ s.input = .write 0x00 32 c :: rest :=
  ⟨{ State.reset with input := [.write 0x00 32 0x00000001, .waitReady] }, 0x00000001, [.waitReady], by decide⟩
theorem witness_LatencyDoesNotChangeTheOutcome : ∃ (s : State) (c : Word) (rest : List HostEvent),
    s.pend = some c ∧ s.input = .waitReady :: rest :=
  ⟨{ State.reset with pend := some 0x00000001, input := [.waitReady] }, 0x00000001, [], by decide⟩
theorem witness_SetBitCompletes : ∃ (s : State) (p : Nat), s.attach = true ∧ p < 8 * flen s ∧ p + 1 = 8 * flen s :=
  ⟨attachedAs .p false, 215, by decide⟩
theorem witness_SetValueCompletes : ∃ (s : State) (p w : Nat), s.attach = true ∧ 0 < w ∧ w < 32 ∧ p + w ≤ 8 * flen s :=
  ⟨attachedAs .p false, 200, 16, by decide⟩
theorem witness_SetValueCompletes_32 : ∃ (s : State) (p : Nat), s.attach = true ∧ p + 32 ≤ 8 * flen s :=
  ⟨attachedAs .p true, 216, by decide⟩
theorem witness_SetValueReadsBack : ∃ (s : State) (p w : Nat) (i : Instr),
    s.attach = true ∧ 1 ≤ w ∧ w ≤ 32 ∧ p + w ≤ 8 * flen s ∧ i = if w = 32 then .setValue32 p else .setValue p w :=
  ⟨attachedAs .p false, 184, 32, .setValue32 184, by decide⟩
theorem witness_SetValueReadsBack_one : ∃ (s : State) (p w : Nat) (i : Instr),
    s.attach = true ∧ 1 ≤ w ∧ w ≤ 32 ∧ p + w ≤ 8 * flen s ∧ i = if w = 32 then .setValue32 p else .setValue p w :=
  ⟨attachedAs .u false, 247, 1, .setValue 247 1, by decide⟩
theorem witness_SetValueOfWidthZeroIsNoOp : (attachedAs .p false).attach = true := by decide
theorem witness_CalcCompletes : ∃ (s : State) (ptr L : Nat),
    s.attach = true ∧ s.opa.toInt = L ∧ ptr + (L + 7) / 8 ≤ flen s :=
  ⟨{ attachedAs .p false with opa := 64 }, 19, 64, by decide⟩
theorem witness_CalcCompletes_empty : ∃ (s : State) (ptr L : Nat),
    s.attach = true ∧ s.opa.toInt = L ∧ ptr + (L + 7) / 8 ≤ flen s :=
  ⟨attachedAs .p false, 27, 0, by decide⟩
theorem witness_ChkIsThePolynomialRemainder : ∃ (m : Memory) (ptr L W i : Nat) (P : BitVec W) (M G : Polynomial (ZMod 2)),
    (W = 16 ∨ W = 32) ∧
    (M = ∑ k ∈ Finset.range L,
      if getBit m (8 * ptr + (8 * ((L + 7) / 8) - L) + k) = true then Polynomial.X ^ (L - 1 - k) else 0) ∧
    (G = Polynomial.X ^ W + ∑ j ∈ Finset.range W, if P.getLsbD j = true then Polynomial.X ^ j else 0) ∧ i < W :=
  ⟨ofBytes 0 [0xFF, 0x12], 0, 12, 16, 15, polyCrc16, _, _, .inl rfl, rfl, rfl, by decide⟩
theorem witness_ByteSerialFormAgrees_chunks : ∃ (W : Nat) (chunks : List (List Bool)), (W = 16 ∨ W = 32) ∧
    ∀ chunk ∈ chunks, 1 ≤ chunk.length ∧ chunk.length ≤ 8 :=
  ⟨16, [[true], [false, true, true, false, true, false, false, true]], by decide⟩
theorem witness_ByteSerialFormAgrees_lead : ∃ (m m' : Memory) (ptr L W : Nat), (W = 16 ∨ W = 32) ∧
    (∀ q, 8 * ptr ≤ q → q < 8 * ptr + (8 * ((L + 7) / 8) - L) → getBit m' q = false) ∧
    ∀ q, 8 * ptr + (8 * ((L + 7) / 8) - L) ≤ q → getBit m' q = getBit m q := by
  refine ⟨ofBytes 0 [0xFF, 0x12], putField (ofBytes 0 [0xFF, 0x12]) 0 4 0, 0, 12, 16, .inl rfl, ?_, ?_⟩
  · intro q _ hq
    rw [getBit_putField, if_pos (by omega), Nat.zero_testBit]
  · intro q hq
    rw [getBit_putField, if_neg (by omega)]
theorem witness_ChkIsLinearInItsDomain : ∃ (m m' e : Memory) (ptr L W : Nat), (W = 16 ∨ W = 32) ∧
    ∀ k, k < L → getBit m' (8 * ptr + (8 * ((L + 7) / 8) - L) + k) =
      (getBit m (8 * ptr + (8 * ((L + 7) / 8) - L) + k) ^^ getBit e (8 * ptr + (8 * ((L + 7) / 8) - L) + k)) :=
  ⟨ofBytes 0 [0x0F, 0x12], ofBytes 0 [0x0C, 0x21], ofBytes 0 [0x03, 0x33], 0, 12, 16, by decide⟩
theorem witness_ChkIsLinearInItsDomain_outside : ∃ (m m' : Memory) (ptr L : Nat), m ≠ m' ∧
    ∀ k, k < L → getBit m' (8 * ptr + (8 * ((L + 7) / 8) - L) + k) = getBit m (8 * ptr + (8 * ((L + 7) / 8) - L) + k) :=
  ⟨ofBytes 0 [0xFF, 0x12], ofBytes 0 [0x0F, 0x12], 0, 12, by decide⟩
theorem witness_SingleBitChangeIsDetected : ∃ (m m' : Memory) (ptr L W n : Nat) (P : BitVec W),
    (W = 16 ∨ W = 32) ∧ P ≠ 0 ∧ n < L ∧
    ∀ k, k < L → (getBit m' (8 * ptr + (8 * ((L + 7) / 8) - L) + k) ≠ getBit m (8 * ptr + (8 * ((L + 7) / 8) - L) + k) ↔
      k = n) :=
  ⟨ofBytes 0 [0x31], ofBytes 0 [0x30], 0, 8, 16, 7, polyCrc16, by decide⟩
theorem witness_SetAcqCompletes : ∃ (s : State) (p : Nat), s.attach = true ∧ p + 3 ≤ 8 * flen s ∧ s.actVariant = .p :=
  ⟨attachedAs .p false, 213, by decide⟩
theorem witness_SetAcqCompletes_e : (attachedAs .e true).attach = true ∧ (attachedAs .e true).actVariant = .e := by decide
theorem witness_SetDateCompletes : ∃ (s : State) (p q : Nat), s.attach = true ∧ p + 16 ≤ 8 * flen s ∧
    ((s.actVariant = .p ∧ q = 19) ∨ (s.actVariant = .e ∧ q = 23)) :=
  ⟨attachedAs .e true, 232, 23, by decide⟩
theorem witness_SetDateCompletes_p : ∃ (s : State) (q : Nat), s.attach = true ∧
    ((s.actVariant = .p ∧ q = 19) ∨ (s.actVariant = .e ∧ q = 23)) := ⟨attachedAs .p true, 19, by decide⟩
theorem witness_SetLocCompletes : ∃ (s : State) (p q : Nat), s.attach = true ∧ p + 53 ≤ 8 * flen s ∧
    ((s.actVariant = .p ∧ q = 35) ∨ (s.actVariant = .e ∧ q = 39)) :=
  ⟨attachedAs .p false, 163, 35, by decide⟩
theorem witness_SetLocCompletes_e : ∃ (s : State) (q : Nat), s.attach = true ∧
    ((s.actVariant = .p ∧ q = 35) ∨ (s.actVariant = .e ∧ q = 39)) := ⟨attachedAs .e false, 39, by decide⟩
theorem witness_SetUserCompletes : ∃ (s : State) (p : Nat) (i : Instr) (cap : Nat) (nib : Bool), s.attach = true ∧
    (cap, nib) = specCapacity s.actVariant s.actBch ∧
    ((i = .setUser p ∧ p + userBits s ≤ 8 * flen s) ∨
      (i = .setUserT ∧ ((s.actVariant = .p ∧ p = 88) ∨ (s.actVariant = .e ∧ p = 92) ∨ (s.actVariant = .u ∧ p = 16)))) :=
  ⟨attachedAs .u false, 16, .setUser 16, 29, false, by decide⟩
theorem witness_SetUserCompletes_table : ∃ (s : State) (p : Nat) (i : Instr) (cap : Nat) (nib : Bool), s.attach = true ∧
    (cap, nib) = specCapacity s.actVariant s.actBch ∧ nib = true ∧ s.opa.toNat = cap + 1 ∧
    ((i = .setUser p ∧ p + userBits s ≤ 8 * flen s) ∨
      (i = .setUserT ∧ ((s.actVariant = .p ∧ p = 88) ∨ (s.actVariant = .e ∧ p = 92) ∨ (s.actVariant = .u ∧ p = 16)))) :=
  ⟨{ attachedAs .e true with opa := 16 }, 92, .setUserT, 15, true, by decide⟩
theorem witness_SetUserReadsOnlyItsPayload : ∃ (s : State) (b : Memory) (cap : Nat) (nib : Bool), b ≠ s.userBuf ∧
    (cap, nib) = specCapacity s.actVariant s.actBch ∧
    (∀ k, k < min s.opa.toNat cap → readByte b k = readByte s.userBuf k) ∧
    (nib = true → s.opa.toNat = cap + 1 → readByte b cap = readByte s.userBuf cap) :=
  ⟨{ attachedAs .e true with opa := 16, userBuf := ofBytes 15 [0xFF, 0x01] }, ofBytes 15 [0xFF, 0x02], 15, true, by decide⟩
theorem witness_SetUserReadsOnlyItsPayload_empty : (attachedAs .p false).opa = 0 := by decide
theorem witness_CleanConstructsAnEmptyFrame : (attachedAs .u true).attach = true := by decide
theorem witness_SetCrc16Completes : ∃ (s : State) (p : Nat) (i : Instr) (crc : BitVec 16), s.attach = true ∧
    crc = chk s.frame 2 (8 * flen s - (specCrcOff s.actVariant + 16)) (0x1021 : BitVec 16) ∧
    ((i = .setCrc16 p ∧ p + 16 ≤ 8 * flen s) ∨ (i = .setCrc16T ∧ p = specCrcOff s.actVariant)) :=
  ⟨attachedAs .p false, 200, .setCrc16 200, _, rfl, rfl, by decide⟩
theorem witness_SetCrc16Completes_table : ∃ (s : State) (p : Nat) (i : Instr) (crc : BitVec 16), s.attach = true ∧
    crc = chk s.frame 2 (8 * flen s - (specCrcOff s.actVariant + 16)) (0x1021 : BitVec 16) ∧
    ((i = .setCrc16 p ∧ p + 16 ≤ 8 * flen s) ∨ (i = .setCrc16T ∧ p = specCrcOff s.actVariant)) :=
  ⟨attachedAs .e false, 4, .setCrc16T, _, rfl, rfl, by decide⟩
theorem witness_SetCrc16Bch32Completes : ∃ (s : State) (b : Nat) (i : Instr) (crc : BitVec 16), s.attach = true ∧
    crc = chk s.frame 2 (8 * flen s - 32 - (specCrcOff s.actVariant + 16)) (0x1021 : BitVec 16) ∧
    ((i = .setCrc16Bch32 b ∧ b + 32 ≤ 8 * flen s) ∨ (i = .setCrc16Bch32T ∧ s.actBch = true ∧ b = 216)) :=
  ⟨attachedAs .p false, 184, .setCrc16Bch32 184, _, rfl, rfl, by decide⟩
theorem witness_SetCrc16Bch32Completes_table : ∃ (s : State) (b : Nat) (i : Instr) (crc : BitVec 16), s.attach = true ∧
    crc = chk s.frame 2 (8 * flen s - 32 - (specCrcOff s.actVariant + 16)) (0x1021 : BitVec 16) ∧
    ((i = .setCrc16Bch32 b ∧ b + 32 ≤ 8 * flen s) ∨ (i = .setCrc16Bch32T ∧ s.actBch = true ∧ b = 216)) :=
  ⟨attachedAs .e true, 216, .setCrc16Bch32T, _, rfl, rfl, by decide⟩
theorem witness_SealedFrameChecks : ∃ (s : State) (i : Instr), s.attach = true ∧
    (i = .setCrc16T ∨ i = .setCrc16 (specCrcOff s.actVariant)) := ⟨attachedAs .e false, .setCrc16 4, by decide⟩
theorem witness_SealedFrameChecks_bch : ∃ (s : State) (i : Instr) (b : Nat), s.attach = true ∧ b + 32 = 8 * flen s ∧
    ((i = .setCrc16Bch32T ∧ s.actBch = true) ∨ i = .setCrc16Bch32 b) := ⟨attachedAs .e true, .setCrc16Bch32T, 216, by decide⟩
theorem witness_SealedFrameChecks_positional : ∃ (s : State) (i : Instr) (b : Nat), s.attach = true ∧
    b + 32 = 8 * flen s ∧ ((i = .setCrc16Bch32T ∧ s.actBch = true) ∨ i = .setCrc16Bch32 b) :=
  ⟨attachedAs .p false, .setCrc16Bch32 184, 184, by decide⟩
theorem witness_ResealIsIdempotent : ∃ (s : State) (i j : Instr), s.attach = true ∧ s.frame.wf = true ∧ s.frame ≠ [] ∧
    (i = .setCrc16T ∨ i = .setCrc16 (specCrcOff s.actVariant)) ∧
    (j = .setCrc16T ∨ j = .setCrc16 (specCrcOff s.actVariant)) :=
  ⟨{ attachedAs .e true with frame := ofBytes 2 [0x2F, 0x53] }, .setCrc16T, .setCrc16 4, by decide⟩
theorem witness_ResealIsIdempotent_bch : ∃ (s : State) (i j : Instr) (b : Nat), s.attach = true ∧ s.frame.wf = true ∧
    s.frame ≠ [] ∧ b + 32 = 8 * flen s ∧ ((i = .setCrc16Bch32T ∧ s.actBch = true) ∨ i = .setCrc16Bch32 b) ∧
    ((j = .setCrc16Bch32T ∧ s.actBch = true) ∨ j = .setCrc16Bch32 b) :=
  ⟨{ attachedAs .p true with frame := ofBytes 2 [0x2F, 0x53] }, .setCrc16Bch32T, .setCrc16Bch32 216, 216, by decide⟩
set_option maxRecDepth 8000 in
/-- Both sides of each inequality of 60_exceptions.md R228 at its edge, FLEN = 27. -/
theorem witness_UndefinedExactlyOnLayoutViolations :
    (faultIs (exec (.setBit 216) (attachedAs .p false)) .layoutWrite ∧ nextIs (exec (.setBit 215) (attachedAs .p false)) fun _ => true) ∧
    (faultIs (exec (.setValue 215 2) (attachedAs .p false)) .layoutWrite ∧
      nextIs (exec (.setValue 255 0) (attachedAs .p false)) fun _ => true) ∧
    (faultIs (exec (.setValue32 185) (attachedAs .p false)) .layoutWrite ∧
      nextIs (exec (.setValue32 184) (attachedAs .p false)) fun _ => true) ∧
    (faultIs (exec (.setAcq 214) (attachedAs .p false)) .layoutWrite ∧
      nextIs (exec (.setAcq 213) (attachedAs .p false)) fun _ => true) ∧
    (faultIs (exec (.setDate 201) (attachedAs .p false)) .layoutWrite ∧
      nextIs (exec (.setDate 200) (attachedAs .p false)) fun _ => true) ∧
    (faultIs (exec (.setLoc 164) (attachedAs .p false)) .layoutWrite ∧
      nextIs (exec (.setLoc 163) (attachedAs .p false)) fun _ => true) ∧
    (faultIs (exec (.setUser 89) (attachedAs .p false)) .layoutWrite ∧
      nextIs (exec (.setUser 88) (attachedAs .p false)) fun _ => true) ∧
    (faultIs (exec (.setCrc16 201) (attachedAs .p false)) .layoutWrite ∧
      faultIs (exec (.setCrc16Bch32 185) (attachedAs .p false)) .layoutWrite) := by decide
theorem witness_InvalidHandleOutcome : State.reset.attach = false ∧ lacksField .setLocT State.reset = false := by decide
theorem witness_CommandErrorOutcome : decode 0x00000080 = .rejected .reservedBits ∧
    lacksField .setLocT (attachedAs .u false) = true ∧ lacksField .setCrc16Bch32T (attachedAs .p false) = true := by decide
theorem witness_CommandsWriteNoHostRegister : ∃ (i : Instr) (s t : State), exec i s = .next t :=
  ⟨.clean, attachedAs .u true, _, rfl⟩
theorem witness_CommandsStayInsideTheFrame : ∃ (i : Instr) (s t : State), i ≠ .clean ∧ exec i s = .next t :=
  ⟨.setBit 215, attachedAs .p false, _, by decide, rfl⟩
theorem witness_AssemblerStateMachine :
    (nextIs (exec (.setValue 0 0) (attachedAs .p false)) fun t => t.asmState == .empty) ∧
    (nextIs (exec (.setAcq 0) (attachedAs .p false)) fun t => t.asmState == .populated) ∧
    (nextIs (exec .clean { attachedAs .p false with asmState := .sealed }) fun t => t.asmState == .empty) ∧
    (nextIs (exec (.setAcq 0) { attachedAs .p false with asmState := .sealed }) fun t => t.asmState == .sealed) ∧
    nextIs (exec .clean { State.reset with asmState := .sealed }) fun t => t.asmState == .sealed := by decide
theorem witness_CommandsIgnoreUnlatchedConfiguration : Instr.setAcqT ≠ .clean := by decide
theorem witness_CommandsReadOnlyTheirOperands :
    readsOpbOpc (.calc16 0) = false ∧ readsPoly (.setUser 0) = false ∧ readsUserBuf (.setLoc 0) = false ∧
      readsNoOperand .setCrc16T = true := by decide
theorem witness_ResetEventResets : ∃ (s : State) (rest : List HostEvent),
    s.input = .reset :: rest ∧ (s.pend = none ∨ 0 < s.latencyLeft) ∧ s.pend ≠ none :=
  ⟨{ attachedAs .u true with pend := some 1, latencyLeft := 1, input := [.reset] }, [], by decide⟩
theorem witness_StateAfterReset : lacksField (.setUser 88) State.reset = false := by decide
theorem witness_OnlyStatusMayBeReadWhileBusy : ∃ (s : State) (offset : BitVec 8), s.pend ≠ none ∧ 0 < s.latencyLeft ∧
    offset.toNat % 4 = 0 ∧ s.input = .write offset 32 7 :: [] :=
  ⟨{ attachedAs .p false with pend := some 1, latencyLeft := 1, input := [.write 0x18 32 7] }, 0x18, by decide⟩
theorem witness_OnlyStatusMayBeReadWhileBusy_read : ∃ (s : State) (offset : BitVec 8), s.pend ≠ none ∧ 0 < s.latencyLeft ∧
    offset.toNat % 4 = 0 ∧ offset ≠ 0x18 ∧ s.input = .read offset 32 :: [] :=
  ⟨{ attachedAs .p false with pend := some 1, latencyLeft := 1, input := [.read 0x1C 32] }, 0x1C, by decide⟩
theorem witness_OnlyStatusMayBeReadWhileBusy_status : ∃ s : State, s.pend ≠ none ∧ 0 < s.latencyLeft ∧
    s.input = .read 0x18 32 :: [] ∧ nextIs (step s) fun t => t.reads == [0x00000001] :=
  ⟨{ attachedAs .p false with pend := some 1, latencyLeft := 1, input := [.read 0x18 32] }, by decide⟩
theorem witness_OtherAccessesAreUndefined : ∃ (s : State) (offset : BitVec 8) (bits : Nat),
    (s.pend = none ∨ 0 < s.latencyLeft) ∧ (bits ≠ 32 ∨ offset.toNat % 4 ≠ 0) ∧ s.input = .read offset bits :: [] :=
  ⟨{ State.reset with input := [.read 0x1A 32] }, 0x1A, 32, by decide⟩
theorem witness_OtherAccessesAreUndefined_width : ∃ (s : State) (offset : BitVec 8) (bits : Nat),
    (s.pend = none ∨ 0 < s.latencyLeft) ∧ (bits ≠ 32 ∨ offset.toNat % 4 ≠ 0) ∧ s.input = .write offset bits 1 :: [] :=
  ⟨{ State.reset with pend := some 1, latencyLeft := 1, input := [.write 0x18 16 1] }, 0x18, 16, by decide⟩
theorem witness_ReadsHaveNoSideEffect : ∃ (s : State) (offset : BitVec 8),
    s.pend = none ∧ offset.toNat % 4 = 0 ∧ s.input = .read offset 32 :: [] :=
  ⟨{ State.reset with input := [.read 0x80 32] }, 0x80, by decide⟩
/-- The block the reads are tried on: every register and the last word of each window hold values of their own. -/
def readable : State :=
  { attachedAs .u true with
    opa := 1, opb := 2, opc := 3, poly := 4, result := 5, asmState := .populated, frame := [(28, 1), (31, 4)],
    userBuf := [(28, 5), (31, 8)] }

/-- A read at the offset returns the word. -/
def readGives (offset : BitVec 8) (w : Word) : Bool :=
  nextIs (step { readable with input := [.read offset 32] }) fun t => t.reads == [w]

/-- Every clause at an edge of its range: the registers apart from each other, and the last word of each window. -/
theorem witness_ReadsHaveNoSideEffect_registers : readGives 0x04 1 ∧ readGives 0x08 2 ∧ readGives 0x0C 3 ∧
    readGives 0x10 4 ∧ readGives 0x14 0x0000000D ∧ readGives 0x18 0x000000C8 ∧ readGives 0x1C 5 ∧ readGives 0x20 31 := by
  decide
theorem witness_ReadsHaveNoSideEffect_windows : readGives 0x9C 0x01000004 ∧ readGives 0xDC 0x05000008 := by decide
theorem witness_ReadsHaveNoSideEffect_zero : readGives 0x00 0 ∧ readGives 0x24 0 ∧ readGives 0x7C 0 ∧ readGives 0xA0 0 ∧
    readGives 0xBC 0 ∧ readGives 0xE0 0 ∧ readGives 0xFC 0 := by decide
theorem witness_OperandRegistersReadBack : ∃ s : State,
    s.pend = none ∧ s.input = .write 0x10 32 0xEE5B42FD :: .read 0x10 32 :: [] :=
  ⟨{ State.reset with input := [.write 0x10 32 0xEE5B42FD, .read 0x10 32] }, by decide⟩
theorem witness_CfgIsWriteAnyReadLegal : ∃ (s : State) (v : Word), s.pend = none ∧
    s.input = .write 0x14 32 v :: .read 0x14 32 :: [] ∧ v.toNat / 2 % 4 = 3 :=
  ⟨{ State.reset with input := [.write 0x14 32 0xFFFFFFFF, .read 0x14 32] }, 0xFFFFFFFF, by decide⟩
/-- The edges of the ignored ranges: 0x24, 0xA0, 0xE0 and 0xFC read 0; a FLENR write is ignored. -/
theorem witness_ReadOnlyAndReservedOffsets :
    (∀ offset ∈ ([0x24, 0x7C, 0xA0, 0xBC, 0xE0, 0xFC] : List (BitVec 8)),
      nextIs (step { attachedAs .u true with input := [.read offset 32] }) fun t => t.reads == [0]) ∧
    nextIs (step { attachedAs .u true with input := [.write 0x20 32 7] }) fun t => t == attachedAs .u true := by decide
theorem witness_WindowWritesAreBigEndian : ∃ (s : State) (k : Nat), s.pend = none ∧ k < 8 ∧
    s.input = .write (BitVec.ofNat 8 (0x80 + 4 * k)) 32 0x31323334 :: [] :=
  ⟨{ State.reset with input := [.write 0x9C 32 0x31323334] }, 7, by decide⟩
theorem witness_WindowWritesAreBigEndian_userBuf : ∃ (s : State) (k : Nat), s.pend = none ∧ k < 8 ∧
    s.input = .write (BitVec.ofNat 8 (0xC0 + 4 * k)) 32 0x31323334 :: [] :=
  ⟨{ State.reset with input := [.write 0xC0 32 0x31323334] }, 0, by decide⟩
theorem witness_FrameWindowIsInWireOrder : (255 : Nat) < 256 := by decide
theorem witness_OnlyCleanOrResetChangesTheConfiguration :
    (nextIs (step { attachedAs .p false with cfgVariant := .u, pend := some 0x00000001 }) fun t =>
      t.actVariant == .u && t.pend == none) ∧
    nextIs (step { attachedAs .u true with input := [.reset] }) fun t => t.actVariant == .p && t.input == [] := by decide
/-- The clauses' premises: a due engine step with a reset queued behind it, an idle host turn, a host turn while busy. -/
theorem witness_HostAndEngineWriteTheirOwnState_engine : ∃ s t : State, step s = .next t ∧ s.pend ≠ none ∧
    s.latencyLeft = 0 ∧ s.input = [.reset] :=
  ⟨{ attachedAs .p false with pend := some 0x00000001, input := [.reset] }, _, rfl, by decide⟩
theorem witness_HostAndEngineWriteTheirOwnState_idle : ∃ s t : State, step s = .next t ∧
    (∀ rest, s.input ≠ .reset :: rest) ∧ s.pend = none :=
  ⟨{ attachedAs .p false with input := [.write 0x04 32 7] }, _, rfl, fun _ h => by simp at h, rfl⟩
theorem witness_HostAndEngineWriteTheirOwnState_busy : ∃ s t : State, step s = .next t ∧
    (∀ rest, s.input ≠ .reset :: rest) ∧ s.pend ≠ none ∧ 0 < s.latencyLeft ∧ s.input ≠ [] :=
  ⟨{ attachedAs .p false with pend := some 1, latencyLeft := 1, input := [.waitReady] }, _, rfl, fun _ h => by simp at h,
    by decide⟩
theorem witness_NewFrameReachesAnEmptyFrame : ∃ (s : State) (events rest : List HostEvent), s.pend = none ∧
    expandLine (.newFrame .e true) = some events ∧ s.input = events ++ rest :=
  ⟨{ State.reset with input := [.write 0x14 32 0x0000000B, .write 0x00 32 0x00000001, .waitReady, .read 0x18 32] },
    [.write 0x14 32 0x0000000B, .write 0x00 32 0x00000001, .waitReady], [.read 0x18 32], by decide⟩
theorem witness_InvariantIsKept : ∃ s t : State, Inv s ∧ step s = .next t :=
  ⟨{ attachedAs .u true with asmState := .populated, frame := ofBytes 2 [0x01], pend := some 0x00000001 }, _,
    by unfold Inv; decide, rfl⟩
theorem witness_ChecksumPseudoInstructionsReachTheirResult : ∃ (s : State) (ptr : Nat) (L w : Word) (line : HostLine)
    (events rest : List HostEvent), s.pend = none ∧ s.attach = true ∧ 0 ≤ L.toInt ∧ ptr + (L.toNat + 7) / 8 ≤ flen s ∧
    (line = .crc16 ptr L ∧ w = (chk s.frame ptr L.toNat (0x1021 : BitVec 16)).setWidth 32) ∧
    expandLine line = some events ∧ s.input = events ++ rest :=
  ⟨{ attachedAs .p false with
      input := [.write 0x10 32 0x1021, .write 0x04 32 64, .write 0x00 32 0x00101310, .waitReady] }, 19, 64, _, .crc16 19 64,
    [.write 0x10 32 0x1021, .write 0x04 32 64, .write 0x00 32 0x00101310, .waitReady], [], rfl, rfl, by decide, by decide,
    ⟨rfl, rfl⟩, by decide, rfl⟩
theorem witness_HostNotationRefusesWhatTheEncoderRefuses :
    (Instr.setValue 256 3).wellFormed = false ∧ (Instr.setValue 255 31).wellFormed = true ∧
      expandLine (.rd (.frame 7) none) = some [.read 0x9C 32] := by decide

end Sys2Proof.Machine.Tests
end

/-! # The family of 10_state.md: the state and who writes it

Every command form is one `runCommand`, so what the forms have in common is proved once per body; what the host's turn can
do is said once by `HostMove`; a host access of an idle block is an equation for `step`. -/

namespace Sys2Proof.Machine

/-! ## Every command form is one `runCommand` -/

/-- The start position of a form: POS, or the offset of the field its `.T` form names (30_encoding.md R98). -/
def commandStart (i : Instr) (s : State) : Option Nat :=
  match i with
  | .clean => posStart 0
  | .setBit p | .setValue p _ | .setValue32 p | .setAcq p | .setDate p | .setLoc p | .setUser p | .calc16 p | .calc32 p
  | .setCrc16 p | .setCrc16Bch32 p => posStart p
  | .setAcqT => tableStart .acqPeriod s
  | .setDateT => tableStart .day s
  | .setLocT => tableStart .longitude s
  | .setUserT => tableStart .userData s
  | .setCrc16T => tableStart .crc16 s
  | .setCrc16Bch32T => tableStart .bch32 s

/-- The body of a form, which the positional and the `.T` form share. -/
def commandBody : Instr → Nat → State → Answer
  | .clean => bodyClean
  | .setBit _ => bodySetBit
  | .setValue _ w => bodySetValue w
  | .setValue32 _ => bodySetValue 32
  | .setAcq _ | .setAcqT => bodySetAcq
  | .setDate _ | .setDateT => bodySetDate
  | .setLoc _ | .setLocT => bodySetLoc
  | .setUser _ | .setUserT => bodySetUser
  | .calc16 _ => bodyCalc 16
  | .calc32 _ => bodyCalc 32
  | .setCrc16 _ | .setCrc16T => bodySetCrc16
  | .setCrc16Bch32 _ | .setCrc16Bch32T => bodySetCrc16Bch32

theorem exec_eq_runCommand (i : Instr) (s : State) :
    exec i s = runCommand (positionReturning i) (commandStart i s) (commandBody i) s := by
  cases i <;> rfl

/-! ## What a command leaves alone -/

/-- From `s` to `t` nothing changed but bytes inside the frame, STATE, RESULT and the two outcome bits. -/
structure StaysInside (s t : State) : Prop where
  others : t = { s with
    frame := t.frame, asmState := t.asmState, result := t.result, cmdErr := t.cmdErr, invalid := t.invalid }
  outside : ∀ a, flen s ≤ a → readByte t.frame a = readByte s.frame a

theorem StaysInside.flagsOk {s u : State} (h : StaysInside s u) : StaysInside s (flagsOk u) :=
  ⟨congrArg Machine.flagsOk h.others, h.outside⟩

/-- A field that ends inside the frame touches no byte from FLEN on. -/
theorem readByte_putField_beyond {s : State} {p w a : Nat} (m : Memory) (v : Nat) (hfit : p + w ≤ frameBits s)
    (ha : flen s ≤ a) : readByte (putField m p w v) a = readByte m a :=
  readByte_putField m p w v a (.inr (by rw [frameBits_eq] at hfit; omega))

/-- The CRC16 field of the active table lies inside the frame (43_frame_assembler.md R194). -/
theorem crcOff_fits (s : State) : crcOff (activeLayout s) + 16 ≤ frameBits s := by
  have hoff : specCrcOff s.actVariant ≤ 4 := by cases s.actVariant <;> decide
  rw [crcOff_eq, frameBits_eq]
  rcases flen_cases s with h | h <;> omega

theorem bodySetBit_staysInside {p : Nat} {s u : State} (h : bodySetBit p s = .next u) : StaysInside s u := by
  obtain ⟨hp, rfl⟩ := bodySetBit_cases h
  refine ⟨rfl, fun a ha => ?_⟩
  rw [frameBits_eq] at hp
  rw [frameWritten_frame, setFrame_frame, readByte_putBit, if_neg (by omega)]

theorem bodySetValue_staysInside {w p : Nat} {s u : State} (h : bodySetValue w p s = .next u) : StaysInside s u := by
  obtain ⟨-, hfit, rfl⟩ | ⟨-, rfl⟩ := bodySetValue_cases h
  · exact ⟨rfl, fun _ ha => readByte_putField_beyond _ _ hfit ha⟩
  · exact ⟨rfl, fun _ _ => rfl⟩

theorem encodeFields_staysInside {fields : List (Nat × Nat)} {p : Nat} {s u : State}
    (h : encodeFields fields p s = .next u) : StaysInside s u := by
  obtain ⟨hfit, rfl⟩ := encodeFields_cases h
  rw [frameBits_eq] at hfit
  exact ⟨rfl, fun a ha => readByte_putFields_outside fields s.frame p a (.inr (by omega))⟩

theorem bodyCalc_staysInside {W p : Nat} {s u : State} (h : bodyCalc W p s = .next u) : StaysInside s u := by
  obtain ⟨-, -, rfl⟩ := bodyCalc_cases h
  exact ⟨rfl, fun _ _ => rfl⟩

theorem bodySetCrc16_staysInside {p : Nat} {s u : State} (h : bodySetCrc16 p s = .next u) : StaysInside s u := by
  obtain ⟨hfit, rfl⟩ := bodySetCrc16_cases h
  exact ⟨rfl, fun _ ha => readByte_putField_beyond _ _ hfit ha⟩

theorem bodySetCrc16Bch32_staysInside {b : Nat} {s u : State} (h : bodySetCrc16Bch32 b s = .next u) :
    StaysInside s u := by
  obtain ⟨hfit, m, rfl, rfl⟩ := bodySetCrc16Bch32_cases h
  exact ⟨rfl, fun _ ha =>
    (readByte_putField_beyond _ _ hfit ha).trans (readByte_putField_beyond _ _ (crcOff_fits s) ha)⟩

theorem commandBody_staysInside {i : Instr} {p : Nat} {s u : State} (hi : i ≠ .clean)
    (h : commandBody i p s = .next u) : StaysInside s u := by
  cases i with
  | clean => exact absurd rfl hi
  | setBit _ => exact bodySetBit_staysInside h
  | setValue _ _ | setValue32 _ => exact bodySetValue_staysInside h
  | setAcq _ | setAcqT | setDate _ | setDateT | setLoc _ | setLocT | setUser _ | setUserT =>
    exact encodeFields_staysInside h
  | calc16 _ | calc32 _ => exact bodyCalc_staysInside h
  | setCrc16 _ | setCrc16T => exact bodySetCrc16_staysInside h
  | setCrc16Bch32 _ | setCrc16Bch32T => exact bodySetCrc16Bch32_staysInside h

/-- Every command but CLEAN stays inside the frame, with each of its outcomes. -/
theorem exec_staysInside {i : Instr} {s t : State} (hi : i ≠ .clean) (h : exec i s = .next t) : StaysInside s t := by
  rw [exec_eq_runCommand] at h
  obtain ⟨-, rfl⟩ | ⟨p, -, -, rfl⟩ | ⟨p, u, -, -, hbody, rfl⟩ := runCommand_cases h
  · exact ⟨rfl, fun _ _ => rfl⟩
  · exact ⟨rfl, fun _ _ => rfl⟩
  · exact (commandBody_staysInside hi hbody).flagsOk

/-- Settles O38: the bodies check their extent before they write, and only CLEAN latches a configuration. -/
theorem commandsStayInsideTheFrame : Obligations.CommandsStayInsideTheFrame := by
  intro i s t hi h
  obtain ⟨hothers, houtside⟩ := exec_staysInside hi h
  exact ⟨houtside, by rw [hothers], by rw [hothers]⟩

/-! ## Two runs side by side -/

theorem mapNext_ite (f : State → State) (c : Prop) [Decidable c] (a b : Answer) :
    mapNext f (if c then a else b) = if c then mapNext f a else mapNext f b :=
  apply_ite (mapNext f) c a b

/-- A change of the state that the prologue and the outcomes do not see, and that the body answers alike, is one the whole
command answers alike. -/
theorem runCommand_mapNext {f : State → State} {r : Bool} {start : Option Nat} {body : Nat → State → Answer} {s : State}
    (hattach : (f s).attach = s.attach) (hcmdErr : outcomeCmdErr (f s) = f (outcomeCmdErr s))
    (hinvalid : outcomeInvalid r (f s) = f (outcomeInvalid r s)) (hok : ∀ u, flagsOk (f u) = f (flagsOk u))
    (hbody : ∀ p, body p (f s) = mapNext f (body p s)) :
    runCommand r start body (f s) = mapNext f (runCommand r start body s) := by
  cases start with
  | none => rw [runCommand_absent, runCommand_absent, hcmdErr, mapNext]
  | some p =>
    cases ha : s.attach with
    | false => rw [runCommand_detached r p body (hattach.trans ha), runCommand_detached r p body ha, hinvalid, mapNext]
    | true =>
      rw [runCommand_attached r p body (hattach.trans ha), runCommand_attached r p body ha, hbody]
      cases body p s with
      | next u => simp only [mapNext, finish, hok]
      | fault _ | refused _ => rfl

/-- The state with other values in CFG.VARIANT and CFG.BCH_EN. -/
def withUnlatched (v : Variant) (b : Bool) (s : State) : State := { s with cfgVariant := v, cfgBchEn := b }

section

variable (v : Variant) (b : Bool) (s : State)

theorem encodeFields_withUnlatched (fields : List (Nat × Nat)) (p : Nat) :
    encodeFields fields p (withUnlatched v b s) = mapNext (withUnlatched v b) (encodeFields fields p s) := by
  unfold encodeFields
  rw [mapNext_ite]
  rfl

theorem bodySetBit_withUnlatched (p : Nat) :
    bodySetBit p (withUnlatched v b s) = mapNext (withUnlatched v b) (bodySetBit p s) := by
  unfold bodySetBit
  rw [mapNext_ite]
  rfl

theorem bodySetValue_withUnlatched (w p : Nat) :
    bodySetValue w p (withUnlatched v b s) = mapNext (withUnlatched v b) (bodySetValue w p s) := by
  unfold bodySetValue
  rw [mapNext_ite]
  by_cases hw : w > 0
  · simp only [if_pos hw]
    rfl
  · simp only [if_neg hw]
    rfl

theorem bodyCalc_withUnlatched (W p : Nat) :
    bodyCalc W p (withUnlatched v b s) = mapNext (withUnlatched v b) (bodyCalc W p s) := by
  unfold bodyCalc
  rw [mapNext_ite, mapNext_ite]
  rfl

theorem bodySetCrc16_withUnlatched (p : Nat) :
    bodySetCrc16 p (withUnlatched v b s) = mapNext (withUnlatched v b) (bodySetCrc16 p s) := by
  unfold bodySetCrc16
  rw [mapNext_ite]
  rfl

theorem bodySetCrc16Bch32_withUnlatched (p : Nat) :
    bodySetCrc16Bch32 p (withUnlatched v b s) = mapNext (withUnlatched v b) (bodySetCrc16Bch32 p s) := by
  unfold bodySetCrc16Bch32
  rw [mapNext_ite]
  rfl

theorem commandBody_withUnlatched {i : Instr} (hi : i ≠ .clean) (p : Nat) :
    commandBody i p (withUnlatched v b s) = mapNext (withUnlatched v b) (commandBody i p s) := by
  cases i with
  | clean => exact absurd rfl hi
  | setBit _ => exact bodySetBit_withUnlatched v b s p
  | setValue _ w => exact bodySetValue_withUnlatched v b s w p
  | setValue32 _ => exact bodySetValue_withUnlatched v b s 32 p
  | setAcq _ | setAcqT => exact encodeFields_withUnlatched v b s (acqFields s) p
  | setDate _ | setDateT => exact encodeFields_withUnlatched v b s (dateFields s) p
  | setLoc _ | setLocT => exact encodeFields_withUnlatched v b s (locFields s) p
  | setUser _ | setUserT => exact encodeFields_withUnlatched v b s (userFields s) p
  | calc16 _ => exact bodyCalc_withUnlatched v b s 16 p
  | calc32 _ => exact bodyCalc_withUnlatched v b s 32 p
  | setCrc16 _ | setCrc16T => exact bodySetCrc16_withUnlatched v b s p
  | setCrc16Bch32 _ | setCrc16Bch32T => exact bodySetCrc16Bch32_withUnlatched v b s p

/-- The start position comes from the active table, never from CFG (10_state.md R37). -/
theorem commandStart_withUnlatched (i : Instr) : commandStart i (withUnlatched v b s) = commandStart i s := by
  cases i <;> rfl

end

/-- Settles O40: the prologue and every body but CLEAN's read the active configuration alone. -/
theorem commandsIgnoreUnlatchedConfiguration : Obligations.CommandsIgnoreUnlatchedConfiguration := by
  intro i s v b hi
  change exec i (withUnlatched v b s) = mapNext (withUnlatched v b) (exec i s)
  rw [exec_eq_runCommand, exec_eq_runCommand, commandStart_withUnlatched]
  exact runCommand_mapNext rfl rfl rfl (fun _ => rfl) (commandBody_withUnlatched v b s hi)

/-! ## What the engine's step can do -/

theorem opOf_eq_clean {n : Nat} (h : opOf n = some .clean) : n = 0x01 := by
  by_contra hn
  simp only [opOf, if_neg hn] at h
  split_ifs at h <;> cases h

theorem decodeDual_ne_clean {tbl pos width : Nat} {positional table : Instr} (hp : positional ≠ .clean)
    (ht : table ≠ .clean) : decodeDual tbl pos width positional table ≠ .command .clean := by
  unfold decodeDual
  split_ifs <;> simp [hp, ht]

theorem decodeSingle_eq_command {tbl : Nat} {rest : Decoded} {i : Instr} (h : decodeSingle tbl rest = .command i) :
    tbl = 0 ∧ rest = .command i := by
  unfold decodeSingle at h
  split_ifs at h with htbl
  exact ⟨not_not.mp htbl, h⟩

/-- CLEAN is its OP with every other field 0 (30_encoding.md R96). -/
theorem decodeOp_eq_clean {op : Op} {tbl pos width : Nat} (h : decodeOp op tbl pos width = .command .clean) :
    op = .clean ∧ tbl = 0 ∧ pos = 0 ∧ width = 0 := by
  cases op with
  | clean =>
    obtain ⟨htbl, hrest⟩ := decodeSingle_eq_command h
    split_ifs at hrest with hpos hwidth
    exact ⟨rfl, htbl, not_not.mp hpos, not_not.mp hwidth⟩
  | setAcq | setDate | setLoc | setUser | setCrc16 | setCrc16Bch32 =>
    exact absurd h (decodeDual_ne_clean Instr.noConfusion Instr.noConfusion)
  | _ => -- SETBIT, SETVALUE and CALC, the other operations with no `.T` form
    obtain ⟨-, hrest⟩ := decodeSingle_eq_command h
    split_ifs at hrest <;> cases hrest

/-- The one word of CLEAN (30_encoding.md R96: its mask is all ones). -/
theorem eq_one_of_decode_eq_clean {c : Word} (h : decode c = .command .clean) : c = 0x00000001 := by
  unfold decode at h
  split_ifs at h with hreserved
  split at h
  · cases h
  · next op hop =>
    obtain ⟨rfl, htbl, hpos, hwidth⟩ := decodeOp_eq_clean h
    have hop := opOf_eq_clean hop
    have hlt := c.isLt
    simp only [reservedSet, opField, tblField, posField, widthField, slice, Bool.or_eq_true, bne_iff_ne, ne_eq, not_or,
      not_not] at hreserved hop htbl hpos hwidth
    apply BitVec.eq_of_toNat_eq
    change c.toNat = 1
    omega

/-- CLEAN either stays out of the frame altogether or, with a frame attached, latches CFG (43_frame_assembler.md R200). -/
theorem execClean_next {s t : State} (h : exec .clean s = .next t) :
    t = outcomeInvalid false s ∨ s.attach = true ∧ t = flagsOk
      { s with frame := [], actVariant := s.cfgVariant, actBch := s.cfgBchEn, asmState := .empty } := by
  rw [exec_eq_runCommand] at h
  obtain ⟨hstart, -⟩ | ⟨-, -, -, rfl⟩ | ⟨p, u, -, hattach, hbody, rfl⟩ := runCommand_cases h
  · cases hstart
  · exact .inl rfl
  · exact .inr ⟨hattach, congrArg flagsOk (bodyClean_cases (show bodyClean p s = .next u from hbody))⟩

/-- What completing a word can do: CLEAN latches CFG, or nothing changes outside what `StaysInside` names. -/
theorem completeCommand_next {c : Word} {s u : State} (h : completeCommand c s = .next u) :
    StaysInside s u ∨ c = 0x00000001 ∧ s.attach = true ∧ u = flagsOk
      { s with frame := [], actVariant := s.cfgVariant, actBch := s.cfgBchEn, asmState := .empty } := by
  obtain ⟨-, herr⟩ | ⟨i, hi, hexec⟩ := completeCommand_cases c s
  · rw [herr, Host.Outcome.next.injEq] at h
    subst h
    exact .inl ⟨rfl, fun _ _ => rfl⟩
  · rw [hexec] at h
    by_cases hclean : i = .clean
    · subst hclean
      obtain rfl | hlatched := execClean_next h
      · exact .inl ⟨rfl, fun _ _ => rfl⟩
      · exact .inr ⟨eq_one_of_decode_eq_clean hi, hlatched⟩
    · exact .inl (exec_staysInside hclean h)

/-- No completion writes an operand register, CFG, USERBUF, PEND or a field of the host (60_exceptions.md R221). -/
theorem completeCommand_others {c : Word} {s u : State} (h : completeCommand c s = .next u) :
    u = { s with
      frame := u.frame, asmState := u.asmState, result := u.result, cmdErr := u.cmdErr, invalid := u.invalid,
      actVariant := u.actVariant, actBch := u.actBch } := by
  obtain ⟨hothers, -⟩ | ⟨-, -, rfl⟩ := completeCommand_next h
  · rw [hothers]
  · rfl

/-! ## What the host's turn can do -/

/-- Every move of the host's turn, with its guards (00_scope.md R14, 20_memory.md R65, 70_reset_and_hazards.md R250, R256). -/
inductive HostMove (s : State) : State → Prop where
  | idle (hinput : s.input = []) : HostMove s s
  | read {offset : BitVec 8} {bits : Nat} {rest : List HostEvent} (hinput : s.input = .read offset bits :: rest)
      (haccess : accessDefined offset bits = true) (hbusy : busy s = true → hostReg offset.toNat = .status) :
      HostMove s (tick { s with input := rest, reads := readReg (hostReg offset.toNat) s :: s.reads })
  | write {offset : BitVec 8} {bits : Nat} {v : Word} {rest : List HostEvent}
      (hinput : s.input = .write offset bits v :: rest) (haccess : accessDefined offset bits = true)
      (hbusy : busy s = false) : HostMove s (writeReg (hostReg offset.toNat) v { s with input := rest })
  | poll {rest : List HostEvent} (hinput : s.input = .waitReady :: rest) (hbusy : busy s = true) : HostMove s (tick s)
  | waited {rest : List HostEvent} (hinput : s.input = .waitReady :: rest) (hbusy : busy s = false) :
      HostMove s { s with input := rest }
  | reset {rest : List HostEvent} (hinput : s.input = .reset :: rest) :
      HostMove s (platformReset { s with input := rest })

/-- What a read returns does not depend on the events to come. -/
theorem readReg_input (r : HostReg) (s : State) (events : List HostEvent) :
    readReg r { s with input := events } = readReg r s := by
  cases r <;> rfl

theorem hostTurn_next {s t : State} (h : hostTurn s = .next t) : HostMove s t := by
  unfold hostTurn at h
  split at h
  · next hinput =>
    rw [Host.Outcome.next.injEq] at h
    subst h
    exact .idle hinput
  · next e rest hinput =>
    cases e with
    | read offset bits =>
      obtain ⟨haccess, hbusy, rfl⟩ := hostRead_next h
      rw [readReg_input]
      exact .read hinput haccess hbusy
    | write offset bits v =>
      obtain ⟨haccess, hbusy, rfl⟩ := hostWrite_next h
      exact .write hinput haccess hbusy
    | waitReady =>
      unfold hostStep at h
      split_ifs at h with hbusy <;> rw [Host.Outcome.next.injEq] at h <;> subst h
      · exact .poll hinput hbusy
      · exact .waited hinput (Bool.eq_false_of_not_eq_true hbusy)
    | reset =>
      rw [hostStep, Host.Outcome.next.injEq] at h
      subst h
      exact .reset hinput
    | otherAgent => cases h

/-- A host write changes no outcome bit, no RESULT and no active configuration (10_state.md R31, R34, R37). -/
theorem writeReg_engineState (r : HostReg) (v : Word) (s : State) :
    (writeReg r v s).invalid = s.invalid ∧ (writeReg r v s).cmdErr = s.cmdErr ∧ (writeReg r v s).result = s.result ∧
      (writeReg r v s).actVariant = s.actVariant ∧ (writeReg r v s).actBch = s.actBch := by
  cases r <;> exact ⟨rfl, rfl, rfl, rfl, rfl⟩

/-- No host move but reset changes an outcome bit, RESULT or the active configuration (10_state.md R31, R34, R37). -/
theorem HostMove.engineState {s t : State} (h : HostMove s t) (hreset : ∀ rest, s.input ≠ .reset :: rest) :
    t.invalid = s.invalid ∧ t.cmdErr = s.cmdErr ∧ t.result = s.result ∧ t.actVariant = s.actVariant ∧
      t.actBch = s.actBch := by
  cases h with
  | idle | read | poll | waited => exact ⟨rfl, rfl, rfl, rfl, rfl⟩
  | write => exact writeReg_engineState _ _ _
  | reset hinput => exact absurd hinput (hreset _)

theorem busy_of_pend_ne_none {s : State} (h : s.pend ≠ none) : busy s = true := Option.isSome_iff_ne_none.mpr h

theorem busy_of_pend_eq_none {s : State} (h : s.pend = none) : busy s = false := by rw [busy, h, Option.isSome_none]

theorem tick_of_busy {s : State} (h : busy s = true) : tick s = { s with latencyLeft := s.latencyLeft - 1 } := by
  rw [tick, if_pos h]

theorem tick_of_not_busy {s : State} (h : busy s = false) : tick s = s := by
  rw [tick, if_neg (by simp [h])]

/-- With a command pending the host only reads STATUS, and nothing of the block changes (70_reset_and_hazards.md R256). -/
theorem HostMove.busy_block {s t : State} (h : HostMove s t) (hbusy : busy s = true) (hinput : s.input ≠ [])
    (hreset : ∀ rest, s.input ≠ .reset :: rest) :
    t = { s with input := t.input, reads := t.reads, latencyLeft := s.latencyLeft - 1 } := by
  cases h with
  | idle hnil => exact absurd hnil hinput
  | read => exact tick_of_busy hbusy
  | write _ _ hidle | waited _ hidle => exact absurd hbusy (by simp [hidle])
  | poll => exact tick_of_busy hbusy
  | reset hr => exact absurd hr (hreset _)

/-- A pending command's step is due exactly where its latency has run out or the host is done (log entry 3). -/
theorem engineReady_iff (s : State) : engineReady s = true ↔ s.latencyLeft = 0 ∨ s.input = [] := by
  simp [engineReady]

/-- Every step is the completion of the pending word or a move of the host (00_scope.md R14). -/
theorem step_next {s t : State} (h : step s = .next t) :
    (∃ c u, s.pend = some c ∧ engineReady s = true ∧ completeCommand c s = .next u ∧ t = retire u) ∨
      (s.pend = none ∨ engineReady s = false) ∧ HostMove s t := by
  obtain ⟨c, hpend, hready, hstep⟩ | ⟨hturn, hstep⟩ := step_cases s <;> rw [hstep] at h
  · obtain ⟨u, hcomplete, ht⟩ := engineStep_next h
    exact .inl ⟨c, u, hpend, hready, hcomplete, ht⟩
  · exact .inr ⟨hturn, hostTurn_next h⟩

/-- Settles O52: of the engine's steps only CLEAN's latches a configuration, of the host's moves only reset sets one. -/
theorem onlyCleanOrResetChangesTheConfiguration : Obligations.OnlyCleanOrResetChangesTheConfiguration := by
  intro s t h hne
  obtain ⟨c, u, hpend, -, hcomplete, rfl⟩ | ⟨-, hmove⟩ := step_next h
  · obtain ⟨hothers, -⟩ | ⟨rfl, hattach, rfl⟩ := completeCommand_next hcomplete
    · rw [hothers] at hne
      exact absurd rfl hne
    · exact .inl ⟨hpend, rfl, rfl, hattach, rfl⟩
  · by_cases hreset : ∀ rest, s.input ≠ .reset :: rest
    · obtain ⟨-, -, -, hvariant, hbch⟩ := hmove.engineState hreset
      exact absurd (by rw [hvariant, hbch]) hne
    · cases hmove with
      | reset hinput => exact .inr ⟨_, hinput, rfl, rfl⟩
      | idle hinput | read hinput | write hinput | poll hinput | waited hinput => simp [hinput] at hreset

/-- Settles O53: a due step is a completion, which keeps the host's fields, and any other step is a host move. -/
theorem hostAndEngineWriteTheirOwnState : Obligations.HostAndEngineWriteTheirOwnState := by
  intro s t h
  obtain ⟨c, u, hpend, hready, hcomplete, rfl⟩ | ⟨hturn, hmove⟩ := step_next h
  · refine ⟨fun _ _ => ?_, fun _ hnone => ?_, fun _ _ hlatency hinput => ?_⟩
    · rw [completeCommand_others hcomplete]
      exact ⟨rfl, rfl, rfl, rfl, rfl, rfl, rfl, rfl, rfl, rfl, rfl⟩
    · rw [hnone] at hpend
      cases hpend
    · obtain hzero | hnil := (engineReady_iff s).mp hready
      · omega
      · exact absurd hnil hinput
  · refine ⟨fun hpend hdue => ?_, fun hreset _ => hmove.engineState hreset, fun hreset hpend _ hinput =>
      hmove.busy_block (busy_of_pend_ne_none hpend) hinput hreset⟩
    obtain hnone | hnotReady := hturn
    · exact absurd hnone hpend
    · rw [(engineReady_iff s).mpr hdue] at hnotReady
      cases hnotReady

/-! ## A host access of an idle block -/

theorem step_of_pend_eq_none {s : State} {e : HostEvent} {rest : List HostEvent} (hpend : s.pend = none)
    (hinput : s.input = e :: rest) : step s = hostStep e rest s := by
  simp only [step, hpend, hostTurn, hinput]

theorem accessDefined_aligned {offset : BitVec 8} (h : offset.toNat % 4 = 0) : accessDefined offset 32 = true := by
  simp [accessDefined, h]

/-- A read of an idle block returns the register and changes nothing of the block (20_memory.md R66). -/
theorem step_read {s : State} {offset : BitVec 8} {rest : List HostEvent} (hpend : s.pend = none)
    (haligned : offset.toNat % 4 = 0) (hinput : s.input = .read offset 32 :: rest) :
    step s = .next { s with input := rest, reads := readReg (hostReg offset.toNat) s :: s.reads } := by
  have hidle : ∀ events values, busy { s with input := events, reads := values } = false := fun _ _ =>
    busy_of_pend_eq_none hpend
  rw [step_of_pend_eq_none hpend hinput, hostStep, hostRead, if_pos (accessDefined_aligned haligned),
    if_neg (fun hbusy => absurd hbusy.1 (by simp [hidle rest s.reads])), readReg_input, tick_of_not_busy (hidle _ _)]

/-- A write of an idle block does what its register says (20_memory.md R66). -/
theorem step_write {s : State} {offset : BitVec 8} {v : Word} {rest : List HostEvent} (hpend : s.pend = none)
    (haligned : offset.toNat % 4 = 0) (hinput : s.input = .write offset 32 v :: rest) :
    step s = .next (writeReg (hostReg offset.toNat) v { s with input := rest }) := by
  have hidle : busy { s with input := rest } = false := busy_of_pend_eq_none hpend
  rw [step_of_pend_eq_none hpend hinput, hostStep, hostWrite, if_pos (accessDefined_aligned haligned),
    if_neg (by simp [hidle])]

/-- Only a CMD write touches PEND (10_state.md R38). -/
theorem writeReg_pend {r : HostReg} (hr : r ≠ .cmd) (v : Word) (s : State) : (writeReg r v s).pend = s.pend := by
  cases r with
  | cmd => exact absurd rfl hr
  | _ => rfl

@[simp] theorem writeReg_input (r : HostReg) (v : Word) (s : State) : (writeReg r v s).input = s.input := by
  cases r <;> rfl

/-- A write other than CMD's, then a read of the same offset, `t` being the state between the two. -/
theorem run_write_read {s t : State} {offset : BitVec 8} {v : Word} {rest : List HostEvent} (hpend : s.pend = none)
    (haligned : offset.toNat % 4 = 0) (hr : hostReg offset.toNat ≠ .cmd)
    (hinput : s.input = .write offset 32 v :: .read offset 32 :: rest)
    (ht : t = writeReg (hostReg offset.toNat) v { s with input := .read offset 32 :: rest }) :
    core.run 2 s = .next { t with input := rest, reads := readReg (hostReg offset.toNat) t :: t.reads } := by
  rw [core_run_next 1 (step_write hpend haligned hinput), core_run_one, ← ht]
  subst ht
  exact step_read ((writeReg_pend hr _ _).trans hpend) haligned (writeReg_input _ _ _)

/-- Settles O8: offset 0x00 is CMD, whose write is `issue`. -/
theorem cmdWriteIssuesTheCommand : Obligations.CmdWriteIssuesTheCommand := by
  intro s c rest hpend hinput
  refine ⟨_, step_write hpend rfl hinput, rfl, ?_, rfl⟩
  have hbusy : busy (issue c { s with input := rest }) = true := rfl
  change (statusWord (issue c { s with input := rest })).getLsbD 0 = true
  rw [getLsbD_eq_mod, statusWord_toNat, hbusy, decide_eq_true_eq, Bool.toNat_true]
  omega

/-- Settles O47: each of the four offsets names its own register, which the write sets and the read returns. -/
theorem operandRegistersReadBack : Obligations.OperandRegistersReadBack := by
  intro s v rest hpend
  refine ⟨?_, ?_, ?_, ?_⟩ <;> exact fun hinput => run_write_read hpend rfl (by decide) hinput rfl

/-! ## CFG -/

theorem specVariantCode_eq (v : Variant) : specVariantCode v = variantCode v := by cases v <;> rfl

/-- A write of VARIANT stores 0, 1 or 2 and ignores 3 (10_state.md R27). -/
theorem variantCode_variantWrite (old : Variant) {n : Nat} (hn : n < 4) :
    variantCode (variantWrite old n) = if n = 3 then variantCode old else n := by
  interval_cases n <;> rfl

theorem cfgWord_toNat_eq_specCfg (s : State) : (cfgWord s).toNat = specCfg s := by
  rw [cfgWord_toNat, specCfg, specVariantCode_eq]

theorem cfgWord_lt (s : State) : (cfgWord s).toNat < 16 := by
  have := variantCode_lt s.cfgVariant
  have := Bool.toNat_le s.attach
  have := Bool.toNat_le s.cfgBchEn
  rw [cfgWord_toNat]
  omega

theorem cfgWord_attach (s : State) : (cfgWord s).getLsbD 0 = s.attach := by
  rw [getLsbD_eq_mod, cfgWord_toNat]
  cases s.attach <;> simp only [Bool.toNat_false, Bool.toNat_true, decide_eq_true_eq, decide_eq_false_iff_not] <;> omega

theorem cfgWord_bchEn (s : State) : (cfgWord s).getLsbD 3 = s.cfgBchEn := by
  have := variantCode_lt s.cfgVariant
  have := Bool.toNat_le s.attach
  rw [getLsbD_eq_mod, cfgWord_toNat]
  cases s.cfgBchEn <;> simp only [Bool.toNat_false, Bool.toNat_true, decide_eq_true_eq, decide_eq_false_iff_not] <;> omega

theorem cfgWord_variant (s : State) : (cfgWord s).toNat / 2 % 4 = variantCode s.cfgVariant := by
  have := variantCode_lt s.cfgVariant
  have := Bool.toNat_le s.attach
  rw [cfgWord_toNat]
  omega

/-- Settles O48: the write is `writeCfg`, and the fields of the CFG word read after it are the fields it stored. -/
theorem cfgIsWriteAnyReadLegal : Obligations.CfgIsWriteAnyReadLegal := by
  intro s v rest hpend hinput
  refine ⟨_, cfgWord (writeCfg v s), run_write_read hpend rfl (by decide) hinput rfl, cfgWord_attach _, cfgWord_bchEn _,
    ?_, cfgWord_lt _, rfl, rfl, cfgWord_toNat_eq_specCfg _, rfl⟩
  rw [cfgWord_variant, writeCfg_cfgVariant, variantCode_variantWrite _ (Nat.mod_lt _ (by decide)), specVariantCode_eq]

/-! ## Read-only and reserved offsets -/

/-- The offsets the register map does not name (20_memory.md R60). -/
theorem hostReg_reserved {n : Nat} (h : (0x24 ≤ n ∧ n < 0x80) ∨ (0xA0 ≤ n ∧ n < 0xC0) ∨ 0xE0 ≤ n) :
    hostReg n = .reserved := by
  unfold hostReg
  iterate 11 rw [if_neg (by omega)]

/-- The registers a write of which is ignored (10_state.md R30, R33, R34; 20_memory.md R66). -/
theorem writeReg_ignored {r : HostReg} (h : r = .status ∨ r = .result ∨ r = .flenr ∨ r = .reserved) (v : Word)
    (s : State) : writeReg r v s = s := by
  obtain rfl | rfl | rfl | rfl := h <;> rfl

/-- STATUS, RESULT and FLENR are the only named offsets among those that ignore writes (20_memory.md R60). -/
theorem hostReg_readOnly {n : Nat} (haligned : n % 4 = 0)
    (h : (0x18 ≤ n ∧ n < 0x80) ∨ (0xA0 ≤ n ∧ n < 0xC0) ∨ 0xE0 ≤ n) :
    hostReg n = .status ∨ hostReg n = .result ∨ hostReg n = .flenr ∨ hostReg n = .reserved := by
  obtain rfl | rfl | rfl | hrest : n = 0x18 ∨ n = 0x1C ∨ n = 0x20 ∨
      ((0x24 ≤ n ∧ n < 0x80) ∨ (0xA0 ≤ n ∧ n < 0xC0) ∨ 0xE0 ≤ n) := by omega
  · exact .inl rfl
  · exact .inr (.inl rfl)
  · exact .inr (.inr (.inl rfl))
  · exact .inr (.inr (.inr (hostReg_reserved hrest)))

/-- Settles O49: what the register map has at these offsets reads 0, or ignores the write. -/
theorem readOnlyAndReservedOffsets : Obligations.ReadOnlyAndReservedOffsets := by
  intro s offset rest hpend haligned
  refine ⟨fun hrange hinput => ?_, fun v hrange hinput => ?_⟩
  · rw [step_read hpend haligned hinput]
    obtain rfl | hreserved := hrange
    · rfl
    · rw [hostReg_reserved hreserved]
      rfl
  · rw [step_write hpend haligned hinput, writeReg_ignored (hostReg_readOnly haligned hrange)]

end Sys2Proof.Machine

/-! # The family of 20_memory.md: the register map and the two windows

A window word and the four bytes it shows are one relation, `HoldsWindow`: a read returns the word that stands in it, a
write puts its word into it, and no second word stands in it, so a window word written reads back. -/

namespace Sys2Proof.Machine

/-! ## Accesses that are not aligned 32-bit ones -/

/-- The host has its turn where nothing is pending or the latency still runs (70_reset_and_hazards.md R255). -/
theorem step_of_hostTurn {s : State} {e : HostEvent} {rest : List HostEvent} (hturn : s.pend = none ∨ 0 < s.latencyLeft)
    (hinput : s.input = e :: rest) : step s = hostStep e rest s := by
  obtain ⟨c, hpend, hready, -⟩ | ⟨-, hstep⟩ := step_cases s
  · obtain hzero | hnil := (engineReady_iff s).mp hready
    · obtain hnone | hlatency := hturn
      · cases hpend.symm.trans hnone
      · omega
    · cases hinput.symm.trans hnil
  · rw [hstep, hostTurn, hinput]

theorem accessDefined_eq_false {offset : BitVec 8} {bits : Nat} (h : bits ≠ 32 ∨ offset.toNat % 4 ≠ 0) :
    accessDefined offset bits = false := by
  rwa [accessDefined, Bool.and_eq_false_iff, beq_eq_false_iff_ne, beq_eq_false_iff_ne]

/-- Settles O45: at the host's turn the form of the access is checked before anything else. -/
theorem otherAccessesAreUndefined : Obligations.OtherAccessesAreUndefined := by
  intro s offset bits v rest hturn hform
  have hundefined : ¬ accessDefined offset bits = true := by simp [accessDefined_eq_false hform]
  exact ⟨fun hinput => (step_of_hostTurn hturn hinput).trans (if_neg hundefined),
    fun hinput => (step_of_hostTurn hturn hinput).trans (if_neg hundefined)⟩

/-! ## Big-endian reads -/

/-- A read of `n` bytes is an unsigned number of `n` bytes (20_memory.md R63). -/
theorem memRead_lt (m : Memory) (a n : Nat) : memRead m a n < 2 ^ (8 * n) := by
  induction n generalizing a with
  | zero => exact Nat.one_pos
  | succ n ih =>
    calc (readByte m a).toNat * 2 ^ (8 * n) + memRead m (a + 1) n
        < ((readByte m a).toNat + 1) * 2 ^ (8 * n) := by
          rw [Nat.add_one_mul (readByte m a).toNat]
          exact Nat.add_lt_add_left (ih _) _
      _ ≤ 2 ^ 8 * 2 ^ (8 * n) := Nat.mul_le_mul_right _ (readByte m a).isLt
      _ = 2 ^ (8 * (n + 1)) := by rw [← Nat.pow_add, Nat.mul_succ, Nat.add_comm]

/-- Byte `j` of a big-endian number, from the most significant one, is the buffer's byte `a + j` (20_memory.md R63). -/
theorem memRead_byte (m : Memory) (a : Nat) {n j : Nat} (hj : j < n) :
    memRead m a n / 2 ^ (8 * (n - 1 - j)) % 256 = (readByte m (a + j)).toNat := by
  induction n generalizing a j with
  | zero => omega
  | succ n ih =>
    rw [memRead]
    cases j with
    | zero =>
      -- the byte read first stands above all the others
      rw [Nat.mul_comm, show n + 1 - 1 - 0 = n by omega, Nat.mul_add_div (Nat.two_pow_pos _),
        Nat.div_eq_of_lt (memRead_lt m _ n), Nat.add_zero, Nat.mod_eq_of_lt (readByte m a).isLt, Nat.add_zero]
    | succ j =>
      -- the byte read first is a multiple of 256 at this place, and the others are the shorter read
      have hsplit : 2 ^ (8 * n) = 2 ^ (8 * (n - 1 - j)) * (256 * 2 ^ (8 * j)) := by
        rw [show 256 = 2 ^ 8 from rfl, ← Nat.pow_add, ← Nat.pow_add]
        congr 1
        omega
      rw [show n + 1 - 1 - (j + 1) = n - 1 - j by omega, hsplit, Nat.mul_left_comm, Nat.mul_add_div (Nat.two_pow_pos _),
        Nat.mul_left_comm, Nat.mul_add_mod, ih (a + 1) (by omega), Nat.add_right_comm, Nat.add_assoc]

/-! ## Window words -/

theorem windowWord_toNat (m : Memory) (k : Nat) : (windowWord m k).toNat = memRead m (4 * k) 4 := by
  rw [windowWord, BitVec.toNat_ofNat, Nat.mod_eq_of_lt (memRead_lt m _ 4)]

/-- A window read shows the buffer's four bytes (20_memory.md R61). -/
theorem holdsWindow_windowWord (m : Memory) (k : Nat) : HoldsWindow m k (windowWord m k) := by
  intro j hj
  rw [windowWord_toNat, memRead_byte m (4 * k) hj]

/-- A window write puts the word's four bytes into the buffer (20_memory.md R61). -/
theorem holdsWindow_windowWrite (m : Memory) (k : Nat) (v : Word) : HoldsWindow (windowWrite m k v) k v := by
  intro j hj
  rw [windowWrite, readByte_memWrite, if_pos (by omega), BitVec.toNat_ofNat, show 4 * k + j - 4 * k = j by omega]

/-- A word is its four bytes, so at most one stands in a window. -/
theorem HoldsWindow.unique {m : Memory} {k : Nat} {w w' : Word} (h : HoldsWindow m k w) (h' : HoldsWindow m k w') :
    w = w' := by
  have hbyte : ∀ j, j < 4 → w.toNat / 2 ^ (8 * (3 - j)) % 256 = w'.toNat / 2 ^ (8 * (3 - j)) % 256 := fun j hj =>
    (h j hj).trans (h' j hj).symm
  have h0 := hbyte 0 (by decide)
  have h1 := hbyte 1 (by decide)
  have h2 := hbyte 2 (by decide)
  have h3 := hbyte 3 (by decide)
  bv_omega

/-- A window word written reads back (20_memory.md R61). -/
theorem windowWord_windowWrite (m : Memory) (k : Nat) (v : Word) : windowWord (windowWrite m k v) k = v :=
  (holdsWindow_windowWord _ k).unique (holdsWindow_windowWrite m k v)

theorem readByte_windowWrite_outside (m : Memory) (v : Word) {k a : Nat} (h : a < 4 * k ∨ 4 * k + 4 ≤ a) :
    readByte (windowWrite m k v) a = readByte m a := by
  rw [windowWrite, readByte_memWrite, if_neg (by omega)]

/-- Settles O51: bit `31 - p % 32` of the word lies in its byte `p % 32 / 8`, where it is bit `7 - p % 8`. -/
theorem frameWindowIsInWireOrder : Obligations.FrameWindowIsInWireOrder := by
  intro s p _
  have hbyte := holdsWindow_windowWord s.frame (p / 32) (p % 32 / 8) (by omega)
  rw [show 4 * (p / 32) + p % 32 / 8 = p / 8 by omega] at hbyte
  change (windowWord s.frame (p / 32)).toNat.testBit (31 - p % 32) =
    (readByte s.frame (p / 8)).toNat.testBit (7 - p % 8)
  rw [← hbyte, show 256 = 2 ^ 8 from rfl, Nat.testBit_mod_two_pow, Nat.testBit_div_two_pow, decide_eq_true (by omega),
    Bool.true_and, show 31 - p % 32 = 7 - p % 8 + 8 * (3 - p % 32 / 8) by omega]

/-! ## The offsets of the windows -/

theorem toNat_windowOffset {base k : Nat} (h : base + 4 * k < 256) :
    (BitVec.ofNat 8 (base + 4 * k)).toNat = base + 4 * k := by
  rw [BitVec.toNat_ofNat, Nat.mod_eq_of_lt h]

/-- The FRAME window's words stand at 0x80, 0x84 .. 0x9C (20_memory.md R60). -/
theorem hostReg_frameOffset {k : Nat} (hk : k < 8) : hostReg (0x80 + 4 * k) = .frame k := by
  rw [← toNat_windowOffset (by omega)]
  exact hostReg_hostOffset (r := .frame k) (if_pos hk)

/-- The USERBUF window's words stand at 0xC0, 0xC4 .. 0xDC (20_memory.md R60). -/
theorem hostReg_userBufOffset {k : Nat} (hk : k < 8) : hostReg (0xC0 + 4 * k) = .userBuf k := by
  rw [← toNat_windowOffset (by omega)]
  exact hostReg_hostOffset (r := .userBuf k) (if_pos hk)

/-- A write of a window word of an idle block (20_memory.md R61, R66). -/
theorem step_writeWindow {s : State} {base k : Nat} {r : HostReg} {v : Word} {rest : List HostEvent}
    (hpend : s.pend = none) (hfit : base + 4 * k < 256) (haligned : base % 4 = 0) (hr : hostReg (base + 4 * k) = r)
    (hinput : s.input = .write (BitVec.ofNat 8 (base + 4 * k)) 32 v :: rest) :
    step s = .next (writeReg r v { s with input := rest }) := by
  have hoffset := toNat_windowOffset hfit
  rw [step_write hpend (by rw [hoffset]; omega) hinput, hoffset, hr]

/-- Settles O50: both window writes are `windowWrite`, and the FRAME window's also calls FrameWritten. -/
theorem windowWritesAreBigEndian : Obligations.WindowWritesAreBigEndian := by
  intro s k v rest hpend hk
  refine ⟨fun hinput => ?_, fun hinput => ?_⟩
  · refine ⟨_, step_writeWindow hpend (by omega) rfl (hostReg_frameOffset hk) hinput,
      fun j hj => (holdsWindow_windowWrite s.frame k v j hj).symm,
      fun a ha => readByte_windowWrite_outside s.frame v ha, windowWord_windowWrite s.frame k v, ?_⟩
    rw [stateAfterWrite_eq]
    rfl
  · exact ⟨_, step_writeWindow hpend (by omega) rfl (hostReg_userBufOffset hk) hinput,
      fun j hj => (holdsWindow_windowWrite s.userBuf k v j hj).symm,
      fun a ha => readByte_windowWrite_outside s.userBuf v ha, windowWord_windowWrite s.userBuf k v, rfl⟩

/-! ## What the registers read -/

theorem specStateCode_eq (a : AsmState) : specStateCode a = asmStateCode a := by cases a <;> rfl

theorem statusWord_toNat_eq_specStatus (s : State) : (statusWord s).toNat = specStatus (busy s).toNat s := by
  rw [statusWord_toNat, specStatus, specVariantCode_eq, specStateCode_eq]

/-- FLEN by the active configuration (10_state.md R33, 43_frame_assembler.md R191). -/
theorem flen_eq (s : State) : flen s = if s.actVariant = .u ∨ s.actBch = true then 31 else 27 := by
  rw [flen_eq_frameLength]
  cases s.actVariant <;> cases s.actBch <;> rfl

theorem readReg_flenr_toNat (s : State) : (readReg .flenr s).toNat = flen s := by
  rw [readReg, BitVec.toNat_ofNat, Nat.mod_eq_of_lt (by obtain h | h := flen_cases s <;> omega)]

/-- Settles O46: the read returns what its register holds, and each clause says which register the offset names. -/
theorem readsHaveNoSideEffect : Obligations.ReadsHaveNoSideEffect := by
  intro s offset rest hpend haligned hinput
  refine ⟨_, step_read hpend haligned hinput, ?opa, ?opb, ?opc, ?poly, ?cfg, ?status, ?result, ?flenr, ?frame, ?userBuf,
    ?zero⟩
  case opa | opb | opc | poly | result =>
    rintro rfl
    rfl
  case cfg =>
    rintro rfl
    exact cfgWord_toNat_eq_specCfg s
  case status =>
    rintro rfl
    have hstatus := statusWord_toNat_eq_specStatus s
    rwa [busy_of_pend_eq_none hpend] at hstatus
  case flenr =>
    rintro rfl
    exact (readReg_flenr_toNat s).trans (flen_eq s)
  case frame =>
    intro k hk hoffset
    rw [hoffset, hostReg_frameOffset hk]
    exact holdsWindow_windowWord s.frame k
  case userBuf =>
    intro k hk hoffset
    rw [hoffset, hostReg_userBufOffset hk]
    exact holdsWindow_windowWord s.userBuf k
  case zero =>
    rintro (rfl | hreserved)
    · rfl
    · rw [hostReg_reserved hreserved]
      rfl

end Sys2Proof.Machine

/-! # The family of 30_encoding.md: words, operands and host lines

The decoder and the encoder meet in the four fields of a word: `decode_enc` reads back what `Enc` was given, and
`enc_fields` puts together what the decoder reads. -/

namespace Sys2Proof.Machine

/-! ## A word and its fields -/

/-- With both reserved fields 0 a word is `Enc` of its four fields (30_encoding.md R90, R100). -/
theorem enc_fields {c : Word} (h : reservedSet c = false) :
    enc (opField c) (tblField c) (posField c) (widthField c) = c := by
  have hlt := c.isLt
  simp only [reservedSet, slice, Bool.or_eq_false_iff, bne_eq_false_iff_eq] at h
  apply BitVec.eq_of_toNat_eq
  simp only [enc, opField, tblField, posField, widthField, slice, BitVec.toNat_ofNat]
  omega

/-- The fields of a word are smaller than their widths (30_encoding.md R91 to R94). -/
theorem slice_lt (c : Word) (hi lo : Nat) : slice c hi lo < 2 ^ (hi + 1 - lo) := Nat.mod_lt _ (Nat.two_pow_pos _)

/-- A word with no reserved bit set and an assigned OP decodes to what its OP's field rules say (30_encoding.md R97). -/
theorem decode_of_fields {c : Word} {op : Op} {d : Decoded} (hreserved : reservedSet c = false)
    (hop : opOf (opField c) = some op) (hrules : decodeOp op (tblField c) (posField c) (widthField c) = d) :
    decode c = d := by
  simp only [decode, hreserved, hop, hrules, Bool.false_eq_true, if_false]

/-- A word decodes to what its OP's field rules say of the fields `Enc` was given, where each fits (30_encoding.md R97,
R100). -/
theorem decode_enc {n tbl pos width : Nat} {op : Op} {d : Decoded} (hop : opOf n = some op) (hn : n < 64)
    (htbl : tbl < 2) (hpos : pos < 256) (hwidth : width < 64) (hrules : decodeOp op tbl pos width = d) :
    decode (enc n tbl pos width) = d := by
  have hword : (enc n tbl pos width).toNat = width * 2 ^ 16 + pos * 2 ^ 8 + tbl * 2 ^ 6 + n := by
    rw [enc, BitVec.toNat_ofNat, Nat.mod_eq_of_lt (by omega)]
  have hopField : opField (enc n tbl pos width) = n := by simp only [opField, slice, hword]; omega
  have htblField : tblField (enc n tbl pos width) = tbl := by simp only [tblField, slice, hword]; omega
  have hposField : posField (enc n tbl pos width) = pos := by simp only [posField, slice, hword]; omega
  have hwidthField : widthField (enc n tbl pos width) = width := by simp only [widthField, slice, hword]; omega
  refine decode_of_fields ?_ (hopField.symm ▸ hop) (by rw [htblField, hposField, hwidthField, hrules])
  simp only [reservedSet, slice, hword, Bool.or_eq_false_iff, bne_eq_false_iff_eq]
  omega

/-- Settles O1: each form gives `Enc` fields that fit, and the rules of its own OP lead back to it. -/
theorem decodeOfEncodeIsTheCommand : Obligations.DecodeOfEncodeIsTheCommand := by
  intro i h
  cases i with
  | setValue pos width =>
    simp only [Instr.wellFormed, posFits, widthFits, Bool.and_eq_true, decide_eq_true_eq] at h
    obtain ⟨hpos, hwidth⟩ := h
    exact decode_enc rfl (by decide) (by decide) hpos (by omega) (if_pos hwidth)
  | clean | setAcqT | setDateT | setLocT | setUserT | setCrc16T | setCrc16Bch32T => rfl
  | _ => -- the forms whose one operand is POS
    exact decode_enc rfl (by decide) (by decide) (of_decide_eq_true h) (by decide) rfl

theorem decodeDual_eq_command {tbl pos width : Nat} {positional table i : Instr}
    (h : decodeDual tbl pos width positional table = .command i) :
    width = 0 ∧ (tbl = 0 ∧ i = positional ∨ tbl ≠ 0 ∧ pos = 0 ∧ i = table) := by
  unfold decodeDual at h
  split_ifs at h with hwidth htbl hpos <;> cases h
  · exact ⟨not_not.mp hwidth, .inl ⟨htbl, rfl⟩⟩
  · exact ⟨not_not.mp hwidth, .inr ⟨htbl, not_not.mp hpos, rfl⟩⟩

/-- The number of an operation (30_encoding.md R96, column OP). -/
def opCode : Op → Nat
  | .clean => 0x01
  | .setBit => 0x02
  | .setValue => 0x03
  | .setAcq => 0x08
  | .setDate => 0x09
  | .setLoc => 0x0A
  | .setUser => 0x0B
  | .calc => 0x10
  | .setCrc16 => 0x11
  | .setCrc16Bch32 => 0x12

/-- The opcode map gives no operation two numbers (30_encoding.md R96). -/
theorem eq_opCode_of_opOf {n : Nat} {op : Op} (h : opOf n = some op) : n = opCode op := by
  unfold opOf at h
  split_ifs at h <;> cases h <;> assumption

/-- A form an operation's field rules lead to has those fields in its word, and every operand in its field. -/
theorem encode_of_decodeOp {op : Op} {tbl pos width : Nat} {i : Instr} (h : decodeOp op tbl pos width = .command i)
    (htbl : tbl < 2) (hpos : pos < 256) : encode i = enc (opCode op) tbl pos width ∧ i.wellFormed = true := by
  have hfits : posFits pos = true := decide_eq_true hpos
  cases op with
  | clean =>
    obtain ⟨rfl, hrest⟩ := decodeSingle_eq_command h
    split_ifs at hrest with hp hw
    cases hrest
    obtain rfl := not_not.mp hp
    obtain rfl := not_not.mp hw
    exact ⟨rfl, rfl⟩
  | setBit =>
    obtain ⟨rfl, hrest⟩ := decodeSingle_eq_command h
    split_ifs at hrest with hw
    cases hrest
    obtain rfl := not_not.mp hw
    exact ⟨rfl, hfits⟩
  | setValue =>
    obtain ⟨rfl, hrest⟩ := decodeSingle_eq_command h
    split_ifs at hrest with hw hw32 <;> cases hrest
    · exact ⟨rfl, by simp [Instr.wellFormed, hfits, widthFits, hw]⟩
    · subst hw32
      exact ⟨rfl, hfits⟩
  | setAcq | setDate | setLoc | setUser | setCrc16 | setCrc16Bch32 =>
    obtain ⟨rfl, ⟨rfl, rfl⟩ | ⟨hne, rfl, rfl⟩⟩ := decodeDual_eq_command h
    · exact ⟨rfl, hfits⟩
    · obtain rfl : tbl = 1 := by omega
      exact ⟨rfl, rfl⟩
  | _ => -- CALC, the one operation left
    obtain ⟨rfl, hrest⟩ := decodeSingle_eq_command h
    split_ifs at hrest with hw16 hw32 <;> cases hrest
    · subst hw16
      exact ⟨rfl, hfits⟩
    · subst hw32
      exact ⟨rfl, hfits⟩

/-- A word decodes where no reserved bit is set and its OP's field rules allow its fields (30_encoding.md R97). -/
theorem decode_eq_command {c : Word} {i : Instr} (h : decode c = .command i) :
    reservedSet c = false ∧ ∃ op, opOf (opField c) = some op ∧
      decodeOp op (tblField c) (posField c) (widthField c) = .command i := by
  unfold decode at h
  split_ifs at h with hreserved
  split at h
  · cases h
  · next op hop => exact ⟨Bool.eq_false_of_not_eq_true hreserved, op, hop, h⟩

/-- Settles O2: the word is `Enc` of its fields, and so is the form the field rules lead to. -/
theorem encodeOfDecodeIsTheWord : Obligations.EncodeOfDecodeIsTheWord := by
  intro c i h
  obtain ⟨hreserved, op, hop, hfields⟩ := decode_eq_command h
  obtain ⟨hencode, hwf⟩ := encode_of_decodeOp hfields (slice_lt c 6 6) (slice_lt c 15 8)
  rw [← eq_opCode_of_opOf hop, enc_fields hreserved] at hencode
  exact ⟨hencode, hwf⟩

/-! ## The rows of the opcode map -/

/-- A field the mask keeps whole is the pattern's field in every word that matches the row (30_encoding.md R96). -/
theorem slice_of_masked {c mask pattern : Word} (h : c &&& mask = pattern) {hi lo : Nat}
    (hmask : slice mask hi lo = 2 ^ (hi + 1 - lo) - 1) : slice c hi lo = slice pattern hi lo := by
  unfold slice at hmask ⊢
  rw [← h, BitVec.toNat_and, Nat.and_div_two_pow, Nat.and_mod_two_pow, hmask, Nat.and_two_pow_sub_one_eq_mod,
    Nat.mod_mod]

/-- A word that matches a row of full mask is the row's pattern. -/
theorem eq_of_masked_ones {c pattern : Word} (h : c &&& 0xFFFFFFFF = pattern) : c = pattern :=
  (BitVec.and_allOnes).symm.trans h

/-- A word that matches a row whose one operand is POS has the pattern's fields but for POS. -/
theorem decode_of_masked_pos {c pattern : Word} {op : Op} (h : c &&& 0xFFFF00FF = pattern)
    (hreserved : reservedSet pattern = false) (hop : opOf (opField pattern) = some op) :
    decode c = decodeOp op (tblField pattern) (posField c) (widthField pattern) := by
  have h7 : slice c 7 7 = slice pattern 7 7 := slice_of_masked h rfl
  have h31 : slice c 31 22 = slice pattern 31 22 := slice_of_masked h rfl
  have hopField : opField c = opField pattern := slice_of_masked h rfl
  have htblField : tblField c = tblField pattern := slice_of_masked h rfl
  have hwidthField : widthField c = widthField pattern := slice_of_masked h rfl
  refine decode_of_fields ?_ (hopField.symm ▸ hop) (by rw [htblField, hwidthField])
  rwa [reservedSet, h7, h31]

/-- A word that matches the first SETVALUE row holds any POS and a WIDTH of 0..31 (30_encoding.md R96). -/
theorem decode_of_masked_setValue {c : Word} (h : c &&& 0xFFE000FF = 0x00000003) :
    decode c = .command (.setValue (posField c) (widthField c)) := by
  have h7 : slice c 7 7 = 0 := slice_of_masked h rfl
  have h31 : slice c 31 22 = 0 := slice_of_masked h rfl
  have h21 : slice c 21 21 = 0 := slice_of_masked h rfl
  have hopField : opField c = 0x03 := slice_of_masked h rfl
  have htblField : tblField c = 0 := slice_of_masked h rfl
  have hwidth : widthField c < 32 := by
    simp only [slice] at h21
    simp only [widthField, slice]
    omega
  refine decode_of_fields (op := .setValue) ?_ (hopField.symm ▸ rfl) (by rw [htblField]; exact if_pos hwidth)
  rw [reservedSet, h7, h31]
  rfl

/-- A word that matches the row of a form decodes to a form of that row (30_encoding.md R96, R97). -/
theorem decode_of_row {c : Word} (i : Instr) (h : c &&& (opcodeRow i).mask = (opcodeRow i).pattern) :
    ∃ j, decode c = .command j ∧ opcodeRow j = opcodeRow i := by
  cases i with
  | clean | setAcqT | setDateT | setLocT | setUserT | setCrc16T | setCrc16Bch32T =>
    obtain rfl := eq_of_masked_ones h
    exact ⟨_, rfl, rfl⟩
  | setValue _ _ => exact ⟨_, decode_of_masked_setValue h, rfl⟩
  | _ => -- the rows whose one operand is POS
    dsimp only [opcodeRow] at h
    exact ⟨_, decode_of_masked_pos h rfl rfl, rfl⟩

/-- The word of a well-formed form matches the form's row (30_encoding.md R96, R100). -/
theorem encode_matches_row (i : Instr) : Laws.EncodeRow.Statement i := by
  cases i with
  | clean => exact Laws.EncodeRow.clean
  | setBit pos => exact Laws.EncodeRow.setBit pos
  | setValue pos width => exact Laws.EncodeRow.setValue pos width
  | setValue32 pos => exact Laws.EncodeRow.setValue32 pos
  | setAcq pos => exact Laws.EncodeRow.setAcq pos
  | setAcqT => exact Laws.EncodeRow.setAcqT
  | setDate pos => exact Laws.EncodeRow.setDate pos
  | setDateT => exact Laws.EncodeRow.setDateT
  | setLoc pos => exact Laws.EncodeRow.setLoc pos
  | setLocT => exact Laws.EncodeRow.setLocT
  | setUser pos => exact Laws.EncodeRow.setUser pos
  | setUserT => exact Laws.EncodeRow.setUserT
  | calc16 pos => exact Laws.EncodeRow.calc16 pos
  | calc32 pos => exact Laws.EncodeRow.calc32 pos
  | setCrc16 pos => exact Laws.EncodeRow.setCrc16 pos
  | setCrc16T => exact Laws.EncodeRow.setCrc16T
  | setCrc16Bch32 pos => exact Laws.EncodeRow.setCrc16Bch32 pos
  | setCrc16Bch32T => exact Laws.EncodeRow.setCrc16Bch32T

/-- The opcode map lists the row of every form and no other. -/
theorem mem_opcodeRows (r : OpcodeRow) : r ∈ opcodeRows ↔ ∃ i, r = opcodeRow i := by
  refine ⟨fun h => ?_, ?_⟩
  · obtain ⟨i, -, hi⟩ := List.mem_map.mp h
    exact ⟨i, hi.symm⟩
  · rintro ⟨i, rfl⟩
    cases i <;> simp [opcodeRows, opcodeRow]

/-- Settles O3: a form's word matches the form's row, and a word that matches a row decodes to a form of that row. -/
theorem decoderAcceptsExactlyTheOpcodeMap : Obligations.DecoderAcceptsExactlyTheOpcodeMap := by
  refine ⟨fun c => ⟨?_, ?_⟩, ?_⟩
  · rintro ⟨i, hi⟩
    obtain ⟨hword, hwf⟩ := encodeOfDecodeIsTheWord c i hi
    have hmatch := encode_matches_row i hwf
    rw [hword] at hmatch
    exact ⟨opcodeRow i, (mem_opcodeRows _).mpr ⟨i, rfl⟩, eq_of_beq hmatch⟩
  · rintro ⟨r, hr, hmatch⟩
    obtain ⟨i, rfl⟩ := (mem_opcodeRows r).mp hr
    obtain ⟨j, hj, -⟩ := decode_of_row i hmatch
    exact ⟨j, hj⟩
  · intro c r hr r' hr' hmatch hmatch'
    obtain ⟨i, rfl⟩ := (mem_opcodeRows r).mp hr
    obtain ⟨i', rfl⟩ := (mem_opcodeRows r').mp hr'
    obtain ⟨j, hj, hrow⟩ := decode_of_row i hmatch
    obtain ⟨j', hj', hrow'⟩ := decode_of_row i' hmatch'
    rw [hj, Decoded.command.injEq] at hj'
    rw [← hrow, ← hrow', hj']

/-- Settles O5: each word is evaluated. -/
theorem sampleWordsDecode : Obligations.SampleWordsDecode := by
  unfold Obligations.SampleWordsDecode
  decide

/-- Settles O6: each line is evaluated. -/
theorem syntaxExamplesAssemble : Obligations.SyntaxExamplesAssemble := by
  unfold Obligations.SyntaxExamplesAssemble
  decide

/-! ## Which command reads which operand -/

/-- A change of what stands in the operand registers and USERBUF (30_encoding.md R99): a function for each, the identity
where nothing changes. -/
structure OperandChange where
  opa : Word → Word := id
  opb : Word → Word := id
  opc : Word → Word := id
  poly : Word → Word := id
  userBuf : Memory → Memory := id

/-- The state with its operands changed. -/
def OperandChange.apply (f : OperandChange) (s : State) : State :=
  { s with
    opa := f.opa s.opa, opb := f.opb s.opb, opc := f.opc s.opc, poly := f.poly s.poly, userBuf := f.userBuf s.userBuf }

/-- No operand the form reads by 30_encoding.md R99 is changed. -/
structure OperandChange.Spares (f : OperandChange) (i : Instr) : Prop where
  opa : readsNoOperand i = false → f.opa = id
  opbOpc : readsOpbOpc i = true → f.opb = id ∧ f.opc = id
  poly : readsPoly i = true → f.poly = id
  userBuf : readsUserBuf i = true → f.userBuf = id

section

variable (f : OperandChange) (s : State) (p : Nat)

theorem encodeFields_apply (fields : List (Nat × Nat)) :
    encodeFields fields p (f.apply s) = mapNext f.apply (encodeFields fields p s) := by
  unfold encodeFields
  rw [mapNext_ite]
  rfl

theorem bodySetBit_apply (hopa : f.opa = id) : bodySetBit p (f.apply s) = mapNext f.apply (bodySetBit p s) := by
  have hbit : opaBit (f.apply s) = opaBit s := congrArg (·.getLsbD 0) (congrFun hopa s.opa)
  unfold bodySetBit
  rw [mapNext_ite, hbit]
  rfl

theorem bodySetValue_apply (hopa : f.opa = id) (w : Nat) :
    bodySetValue w p (f.apply s) = mapNext f.apply (bodySetValue w p s) := by
  have hvalue : (f.apply s).opa = s.opa := congrFun hopa _
  unfold bodySetValue
  rw [mapNext_ite, hvalue]
  by_cases hw : w > 0
  · simp only [if_pos hw]
    rfl
  · simp only [if_neg hw]
    rfl

theorem bodyCalc_apply (hopa : f.opa = id) (hpoly : f.poly = id) (W : Nat) :
    bodyCalc W p (f.apply s) = mapNext f.apply (bodyCalc W p s) := by
  have hlength : (f.apply s).opa = s.opa := congrFun hopa _
  have hgenerator : (f.apply s).poly = s.poly := congrFun hpoly _
  unfold bodyCalc
  rw [mapNext_ite, mapNext_ite, hlength, hgenerator]
  rfl

theorem bodySetCrc16_apply : bodySetCrc16 p (f.apply s) = mapNext f.apply (bodySetCrc16 p s) := by
  unfold bodySetCrc16
  rw [mapNext_ite]
  rfl

theorem bodySetCrc16Bch32_apply : bodySetCrc16Bch32 p (f.apply s) = mapNext f.apply (bodySetCrc16Bch32 p s) := by
  unfold bodySetCrc16Bch32
  rw [mapNext_ite]
  rfl

/-- No start position comes from an operand register (30_encoding.md R98). -/
theorem commandStart_apply (i : Instr) : commandStart i (f.apply s) = commandStart i s := by
  cases i <;> rfl

variable {f}

theorem commandBody_apply {i : Instr} (h : f.Spares i) :
    commandBody i p (f.apply s) = mapNext f.apply (commandBody i p s) := by
  cases i with
  | clean => rfl
  | setBit _ => exact bodySetBit_apply f s p (h.opa rfl)
  | setValue _ w => exact bodySetValue_apply f s p (h.opa rfl) w
  | setValue32 _ => exact bodySetValue_apply f s p (h.opa rfl) 32
  | setAcq _ | setAcqT =>
    have hopa := h.opa rfl
    cases f
    cases hopa
    exact encodeFields_apply _ s p (acqFields s)
  | setDate _ | setDateT | setLoc _ | setLocT =>
    have hopa := h.opa rfl
    obtain ⟨hopb, hopc⟩ := h.opbOpc rfl
    cases f
    cases hopa
    cases hopb
    cases hopc
    exact encodeFields_apply _ s p _
  | setUser _ | setUserT =>
    have hopa := h.opa rfl
    have huserBuf := h.userBuf rfl
    cases f
    cases hopa
    cases huserBuf
    exact encodeFields_apply _ s p (userFields s)
  | calc16 _ => exact bodyCalc_apply f s p (h.opa rfl) (h.poly rfl) 16
  | calc32 _ => exact bodyCalc_apply f s p (h.opa rfl) (h.poly rfl) 32
  | setCrc16 _ | setCrc16T => exact bodySetCrc16_apply f s p
  | setCrc16Bch32 _ | setCrc16Bch32T => exact bodySetCrc16Bch32_apply f s p

/-- Two runs of a command that differ only in operands it does not read answer alike. -/
theorem exec_apply {i : Instr} (h : f.Spares i) : exec i (f.apply s) = mapNext f.apply (exec i s) := by
  rw [exec_eq_runCommand, exec_eq_runCommand, commandStart_apply]
  exact runCommand_mapNext rfl rfl rfl (fun _ => rfl) fun p => commandBody_apply s p h

end

/-- Settles O41: each clause is one change of the operands, which spares every form the clause speaks of. -/
theorem commandsReadOnlyTheirOperands : Obligations.CommandsReadOnlyTheirOperands := by
  refine ⟨fun i s y z h => ?_, fun i s q h => ?_, fun i s b h => ?_, fun i s x h => ?_⟩
  · exact exec_apply (f := { opb := fun _ => y, opc := fun _ => z }) s
      ⟨fun _ => rfl, fun hreads => absurd hreads (by simp [h]), fun _ => rfl, fun _ => rfl⟩
  · exact exec_apply (f := { poly := fun _ => q }) s
      ⟨fun _ => rfl, fun _ => ⟨rfl, rfl⟩, fun hreads => absurd hreads (by simp [h]), fun _ => rfl⟩
  · exact exec_apply (f := { userBuf := fun _ => b }) s
      ⟨fun _ => rfl, fun _ => ⟨rfl, rfl⟩, fun _ => rfl, fun hreads => absurd hreads (by simp [h])⟩
  · exact exec_apply (f := { opa := fun _ => x }) s
      ⟨fun hreads => absurd hreads (by simp [h]), fun _ => ⟨rfl, rfl⟩, fun _ => rfl, fun _ => rfl⟩

/-! ## What a host line reaches -/

/-- After finitely many steps the machine is in state `t` (70_reset_and_hazards.md R255). -/
def Reaches (s t : State) : Prop := ∃ n, core.run n s = .next t

theorem Reaches.refl (s : State) : Reaches s s := ⟨0, core_run_zero s⟩

theorem Reaches.head {s s' t : State} (h : step s = .next s') (ht : Reaches s' t) : Reaches s t := by
  obtain ⟨n, hn⟩ := ht
  exact ⟨n + 1, (core_run_next n h).trans hn⟩

/-- One poll of the WAIT loop takes one host access off the latency (70_reset_and_hazards.md R263). -/
theorem step_poll {s : State} {c : Word} {n : Nat} {rest : List HostEvent} (hpend : s.pend = some c)
    (hlatency : s.latencyLeft = n + 1) (hinput : s.input = .waitReady :: rest) :
    step s = .next { s with latencyLeft := n } := by
  have hbusy : busy s = true := busy_of_pend_ne_none (by simp [hpend])
  rw [step_of_hostTurn (.inr (by omega)) hinput, hostStep, if_pos hbusy, tick_of_busy hbusy, hlatency]
  rfl

/-- An idle block ends the WAIT loop (30_encoding.md R104). -/
theorem step_waited {s : State} {rest : List HostEvent} (hpend : s.pend = none)
    (hinput : s.input = .waitReady :: rest) : step s = .next { s with input := rest } := by
  rw [step_of_pend_eq_none hpend hinput, hostStep, if_neg (by simp [busy_of_pend_eq_none hpend])]

/-- A pending word whose latency has run out completes (70_reset_and_hazards.md R255). -/
theorem step_complete {s u : State} {c : Word} (hpend : s.pend = some c) (hlatency : s.latencyLeft = 0)
    (hcomplete : completeCommand c s = .next u) : step s = .next (retire u) := by
  have hready : engineReady s = true := (engineReady_iff s).mpr (.inl hlatency)
  simp only [step, hpend, hready, if_true, engineStep, hcomplete]

/-- The host's WAIT loop polls until the latency has run out, whatever it is (70_reset_and_hazards.md R257, R263). -/
theorem reaches_polled {s t : State} {c : Word} {rest : List HostEvent} (hpend : s.pend = some c)
    (hinput : s.input = .waitReady :: rest) (ht : Reaches { s with latencyLeft := 0 } t) : Reaches s t := by
  induction hn : s.latencyLeft generalizing s with
  | zero =>
    rw [← hn] at ht
    exact ht
  | succ n ih => exact .head (step_poll hpend hn hinput) (ih hpend hinput ht rfl)

/-- The state in which the word just issued completes: the host polls in its WAIT loop, and the latency has run out. -/
def completing (c : Word) (rest : List HostEvent) (s : State) : State :=
  { issue c { s with input := .waitReady :: rest } with latencyLeft := 0 }

/-- A CMD write with its WAIT loop reaches the completion of its word, the block idle again (30_encoding.md R104). -/
theorem reaches_cmd_wait {s u : State} {c : Word} {rest : List HostEvent} (hpend : s.pend = none)
    (hinput : s.input = .write 0x00 32 c :: .waitReady :: rest)
    (hcomplete : completeCommand c (completing c rest s) = .next u) :
    Reaches s { retire u with input := rest } := by
  have hu : u.input = .waitReady :: rest := by rw [completeCommand_others hcomplete]; rfl
  refine .head (step_write hpend rfl hinput) (reaches_polled (c := c) (rest := rest) rfl rfl ?_)
  exact .head (step_complete rfl rfl hcomplete) (.head (step_waited rfl hu) (.refl _))

/-- The CFG value of NEWFRAME attaches a frame and selects its configuration (30_encoding.md R104). -/
theorem writeCfg_newFrameCfg (v : Variant) (b : Bool) (s : State) :
    writeCfg (newFrameCfg v b) s = { s with attach := true, cfgVariant := v, cfgBchEn := b } := by
  cases v <;> cases b <;> rfl

/-- Settles O54: the CFG write attaches the frame, and CLEAN, its latency run out, latches CFG and clears the frame. -/
theorem newFrameReachesAnEmptyFrame : Obligations.NewFrameReachesAnEmptyFrame := by
  refine fun v b => ⟨_, expandLine_newFrame v b, fun s rest hpend hinput => ?_⟩
  have hcfg : step s = .next { s with
      attach := true, cfgVariant := v, cfgBchEn := b, input := .write 0x00 32 0x00000001 :: .waitReady :: rest } :=
    (step_write hpend rfl hinput).trans (congrArg _ (writeCfg_newFrameCfg v b _))
  obtain ⟨n, hn⟩ := Reaches.head hcfg (reaches_cmd_wait hpend rfl rfl)
  exact ⟨n, _, hn, rfl, rfl, rfl, rfl, rfl, rfl, fun _ => rfl, rfl, rfl, rfl, rfl⟩

/-- A number in a word that is not negative as a signed one is the unsigned one (00_scope.md R8). -/
theorem toNat_sint32 {v : Word} (h : 0 ≤ v.toInt) : (sint32 v).toNat = v.toNat := by
  have := v.isLt
  rw [BitVec.toInt_eq_toNat_cond] at h
  rw [sint32, BitVec.toInt_eq_toNat_cond]
  split_ifs at h ⊢ <;> omega

/-- What CALC does with its span inside the frame (41_checksum_engine.md R143, R146). -/
theorem bodyCalc_fits {W ptr : Nat} {s : State} (hnonneg : 0 ≤ s.opa.toInt)
    (hspan : ptr + (s.opa.toNat + 7) / 8 ≤ flen s) :
    bodyCalc W ptr s = .next (setResult ((chk s.frame ptr s.opa.toNat (s.poly.setWidth W)).setWidth 32) s) := by
  have hsign : ¬ sint32 s.opa < 0 := Int.not_lt.mpr hnonneg
  have hinside : ¬ ptr + ceil8 s.opa.toNat > flen s := Nat.not_lt.mpr hspan
  rw [bodyCalc, if_neg hsign, toNat_sint32 hnonneg, if_neg hinside]

/-- The completion of CALC's word with a frame attached and its span inside the frame. -/
theorem completeCommand_calc {i : Instr} {W ptr : Nat} {s : State} (hi : i.wellFormed = true)
    (hexec : exec i s = runCommand false (posStart ptr) (bodyCalc W) s) (hattach : s.attach = true)
    (hnonneg : 0 ≤ s.opa.toInt) (hspan : ptr + (s.opa.toNat + 7) / 8 ≤ flen s) :
    completeCommand (encode i) s =
      .next (flagsOk (setResult ((chk s.frame ptr s.opa.toNat (s.poly.setWidth W)).setWidth 32) s)) := by
  simp only [completeCommand, decodeOfEncodeIsTheCommand i hi, hexec, posStart, runCommand_attached _ _ _ hattach,
    bodyCalc_fits hnonneg hspan, finish]

/-- A checksum pseudo-instruction writes POLY and OPA and reaches the checksum in RESULT (30_encoding.md R104). -/
theorem calcEvents_reach {s : State} {i : Instr} {W ptr : Nat} {poly L w : Word} {rest : List HostEvent}
    (hi : i.wellFormed = true) (hexec : ∀ u, exec i u = runCommand false (posStart ptr) (bodyCalc W) u)
    (hpend : s.pend = none) (hattach : s.attach = true) (hnonneg : 0 ≤ L.toInt)
    (hspan : ptr + (L.toNat + 7) / 8 ≤ flen s) (hw : w = (chk s.frame ptr L.toNat (poly.setWidth W)).setWidth 32) :
    ∃ events, calcEvents poly L i = some events ∧ (s.input = events ++ rest →
      ∃ (n : Nat) (t : State), core.run n s = .next t ∧ t.pend = none ∧ t.input = rest ∧ t.result = w ∧
        t.frame = s.frame ∧ t.asmState = s.asmState ∧ t.cmdErr = false ∧ t.invalid = false) := by
  refine ⟨_, calcEvents_wellFormed poly L hi, fun hinput => ?_⟩
  obtain ⟨n, hn⟩ := Reaches.head (step_write hpend rfl hinput) <| .head (step_write hpend rfl rfl) <|
    reaches_cmd_wait hpend rfl (completeCommand_calc hi (hexec _) hattach hnonneg hspan)
  exact ⟨n, _, hn, rfl, rfl, hw.symm, rfl, rfl, rfl, rfl⟩

/-- Settles O57: each pseudo-instruction is `calcEvents` with its generator, and a pointer into the frame fits POS. -/
theorem checksumPseudoInstructionsReachTheirResult : Obligations.ChecksumPseudoInstructionsReachTheirResult := by
  intro s ptr L w line rest hpend hattach hnonneg hspan hline
  have hfits : posFits ptr = true := decide_eq_true (by obtain h | h := flen_cases s <;> omega)
  obtain ⟨rfl, hw⟩ | ⟨rfl, hw⟩ | ⟨rfl, hw⟩ := hline
  · exact calcEvents_reach (i := .calc16 ptr) hfits (fun _ => rfl) hpend hattach hnonneg hspan hw
  · exact calcEvents_reach (i := .calc32 ptr) hfits (fun _ => rfl) hpend hattach hnonneg hspan
      (by rwa [BitVec.setWidth_eq, BitVec.setWidth_eq])
  · exact calcEvents_reach (i := .calc32 ptr) hfits (fun _ => rfl) hpend hattach hnonneg hspan
      (by rwa [BitVec.setWidth_eq, BitVec.setWidth_eq])

/-! ## Which host lines are refused -/

/-- Settles O58: the checked encoder refuses a command, and `hostOffset` a register name. -/
theorem hostNotationRefusesWhatTheEncoderRefuses : Obligations.HostNotationRefusesWhatTheEncoderRefuses := by
  refine ⟨fun i => ⟨fun h => ⟨cmdEvents_illFormed h, runEvents_illFormed h⟩,
    fun h => ⟨cmdEvents_wellFormed h, runEvents_wellFormed h⟩⟩, fun r v e => ?_⟩
  have hwr : expandLine (.wr r v) = none ↔ hostOffset r = none := Option.map_eq_none_iff
  have hrd : expandLine (.rd r e) = none ↔ hostOffset r = none := Option.map_eq_none_iff
  refine ⟨hwr.trans hrd.symm, hrd.trans (hostOffset_eq_none r), fun o ho => ?_⟩
  obtain ⟨offset, hoffset, heq⟩ := Option.map_eq_some_iff.mp ho
  cases heq
  exact hostReg_hostOffset hoffset

end Sys2Proof.Machine

/-! # The family of 40_bit_packer.md: SETBIT and SETVALUE

Both commands assign one field with `putField` (SETBIT's has width 1), so what a field holds, what its write keeps and
which number it reads back as is said once of `putField`; both SETVALUE rows are one statement about `bodySetValue`. -/

namespace Sys2Proof.Machine

/-! ## A field after it is written -/

/-- PutField writes the low bits of its value, most significant first (40_bit_packer.md R124). -/
theorem fieldHolds_putField (m : Memory) (p w v : Nat) : FieldHolds (putField m p w v) p w v := by
  intro i hi
  rw [getBit_putField, if_pos (by omega), Nat.add_sub_cancel_left]

theorem keptOutside_putField (m : Memory) (p w v : Nat) : KeptOutside m (putField m p w v) p w :=
  ⟨fun q hq => by rw [getBit_putField, if_neg (by omega)], fun a ha => readByte_putField m p w v a ha⟩

/-- PutBit is PutField of width 1 (40_bit_packer.md R121, R124). -/
theorem putBit_eq_putField (m : Memory) (p v : Nat) : putBit m p (v.testBit 0) = putField m p 1 v := rfl

/-- A field that holds the low bits of `v` reads back as `v mod 2^w` (40_bit_packer.md R129). -/
theorem fieldValue_of_fieldHolds {m : Memory} {p w v : Nat} (h : FieldHolds m p w v) :
    fieldValue m p w = v % 2 ^ w := by
  induction w generalizing p with
  | zero => rw [fieldValue, pow_zero, Nat.mod_one]
  | succ w ih =>
    have hfirst : getBit m p = v.testBit w := h 0 w.succ_pos
    have hrest : FieldHolds m (p + 1) w v := by
      intro i hi
      have hbit := h (i + 1) (by omega)
      rwa [show p + (i + 1) = p + 1 + i by omega, show w + 1 - 1 - (i + 1) = w - 1 - i by omega] at hbit
    rw [fieldValue, hfirst, ih hrest, Nat.toNat_testBit, Nat.mod_pow_succ, Nat.mul_comm, Nat.add_comm]

/-! ## The position in RESULT -/

/-- RESULT returns a position of at least 0 as its low 16 bits (10_state.md R34). -/
theorem positionWord_natCast (n : Nat) : positionWord n = BitVec.ofNat 32 (n % 2 ^ 16) := by
  apply BitVec.eq_of_toNat_eq
  rw [positionWord, BitVec.ofInt_natCast, BitVec.toNat_setWidth, BitVec.toNat_ofNat, BitVec.toNat_ofNat]

/-- The last position of a non-empty field inside the frame fits RESULT's 16 bits (40_bit_packer.md R126). -/
theorem positionWord_last {s : State} {p bits : Nat} (hbits : 0 < bits) (hfit : p + bits ≤ frameBits s) :
    positionWord ((p : Int) + bits - 1) = BitVec.ofNat 32 (p + bits - 1) := by
  have hlast : ((p : Int) + bits - 1) = ((p + bits - 1 : Nat) : Int) := by omega
  have hle := frameBits_le s
  rw [hlast, positionWord_natCast, Nat.mod_eq_of_lt (by omega)]

/-! ## The commands -/

/-- A frame write that returns its last position and keeps all but its field, completed (42_field_encoder.md R160,
60_exceptions.md R221). -/
theorem wroteField_flagsOk {s : State} {m : Memory} {p bits : Nat} (hbits : 0 < bits) (hfit : p + bits ≤ frameBits s)
    (hkept : KeptOutside s.frame m p bits) :
    WroteField s (flagsOk (setResult (positionWord ((p : Int) + bits - 1)) (frameWritten (setFrame m s)))) p bits := by
  refine ⟨hkept, ?_⟩
  rw [positionWord_last hbits hfit, stateAfterWrite_eq]
  rfl

/-- SETBIT inside the frame writes a field of width 1 (40_bit_packer.md R122). -/
theorem bodySetBit_fits {p : Nat} {s : State} (h : p < frameBits s) :
    bodySetBit p s = .next (frameWritten (setFrame (putField s.frame p 1 s.opa.toNat) s)) := by
  rw [bodySetBit, if_neg (Nat.not_le.mpr h), ← putBit_eq_putField]
  rfl

/-- SETVALUE inside the frame is a frame write that returns its last position (40_bit_packer.md R126). -/
theorem bodySetValue_fits {w p : Nat} {s : State} (hw : 0 < w) (h : p + w ≤ frameBits s) :
    bodySetValue w p s = .next (setResult (positionWord ((p : Int) + w - 1))
      (frameWritten (setFrame (putField s.frame p w s.opa.toNat) s))) := by
  have hinside : ¬ (w > 0 ∧ p + w > frameBits s) := fun ⟨_, hover⟩ => Nat.not_le.mpr hover h
  simp only [bodySetValue, if_neg hinside, if_pos hw]

/-- SETVALUE of width 0 writes RESULT alone (40_bit_packer.md R127). -/
theorem bodySetValue_zero (p : Nat) (s : State) :
    bodySetValue 0 p s = .next (setResult (positionWord ((p : Int) - 1)) s) := by
  simp [bodySetValue, putField, setFrame]

/-- Both rows of SETVALUE: with a width above 0 and its field inside the frame it completes (40_bit_packer.md R126). -/
theorem runCommand_setValue_fits {s : State} {p w : Nat} (hattach : s.attach = true) (hw : 0 < w)
    (hfit : p + w ≤ frameBits s) :
    ∃ t, runCommand true (posStart p) (bodySetValue w) s = .next t ∧ FieldHolds t.frame p w s.opa.toNat ∧
      WroteField s t p w := by
  rw [posStart, runCommand_attached _ _ _ hattach, bodySetValue_fits hw hfit]
  exact ⟨_, rfl, fieldHolds_putField s.frame p w _, wroteField_flagsOk hw hfit (keptOutside_putField s.frame p w _)⟩

/-- Settles O10: SETBIT's bit is a field of width 1. -/
theorem setBitCompletes : Obligations.SetBitCompletes := by
  intro s p hattach hp
  have hexec : exec (.setBit p) s = finish (bodySetBit p s) := runCommand_attached _ _ _ hattach
  rw [hexec, bodySetBit_fits hp, stateAfterWrite_eq]
  exact ⟨_, rfl, fieldHolds_putField s.frame p 1 _ 0 Nat.one_pos, keptOutside_putField s.frame p 1 _, rfl⟩

/-- Settles O11: each row is `bodySetValue` of its width. -/
theorem setValueCompletes : Obligations.SetValueCompletes :=
  ⟨fun _ _ _ hattach hw _ hfit => runCommand_setValue_fits hattach hw hfit,
    fun _ _ hattach hfit => runCommand_setValue_fits hattach (by decide) hfit⟩

/-- Settles O12: the field holds OPA's low bits, and a field reads back as the number it holds. -/
theorem setValueReadsBack : Obligations.SetValueReadsBack := by
  intro s p w i hattach hw hle hfit hi
  have hexec : exec i s = runCommand true (posStart p) (bodySetValue w) s := by
    by_cases h32 : w = 32
    · subst hi h32
      rfl
    · rw [hi, if_neg h32]
      rfl
  obtain ⟨t, ht, hholds, ⟨hbits, -⟩, -⟩ := runCommand_setValue_fits hattach hw hfit
  exact ⟨t, hexec.trans ht, fieldValue_of_fieldHolds hholds, hbits⟩

/-- Settles O13: position -1 truncates to the sentinel, and any other is a natural number. -/
theorem setValueOfWidthZeroIsNoOp : Obligations.SetValueOfWidthZeroIsNoOp := by
  intro s p hattach
  have hexec : exec (.setValue p 0) s = finish (bodySetValue 0 p s) := runCommand_attached _ _ _ hattach
  have hposition : positionWord ((p : Int) - 1) =
      if p = 0 then 0x0000FFFF else BitVec.ofNat 32 ((p - 1) % 2 ^ 16) := by
    cases p with
    | zero => rfl
    | succ n => exact (congrArg positionWord (Int.add_sub_cancel n 1)).trans (positionWord_natCast n)
  rw [hexec, bodySetValue_zero, hposition]
  rfl

end Sys2Proof.Machine

/-! # The family of 41_checksum_engine.md: CHK and CALC

A step of CHK shifts and adds a multiple of the generator, so it is linear over GF(2) in remainder and message bit
together (`chkStep_xor`). Linearity of CHK, the leading zeros, the single changed bit and the byte-serial form come from
that by recursion on the message bits; read as polynomials over GF(2), the same step gives the closed form. -/

namespace Sys2Proof.Machine

/-! ## The command CALC -/

/-- Both rows of CALC: with a length of at least 0 and its span inside the frame it completes (41_checksum_engine.md R143,
R146). -/
theorem runCommand_calc_fits {s : State} {W ptr L : Nat} (hattach : s.attach = true) (hopa : s.opa.toInt = L)
    (hspan : ptr + (L + 7) / 8 ≤ flen s) :
    runCommand false (posStart ptr) (bodyCalc W) s =
      .next (flagsOk (setResult ((chk s.frame ptr L (s.poly.setWidth W)).setWidth 32) s)) := by
  have hnonneg : 0 ≤ s.opa.toInt := by omega
  have hL : s.opa.toNat = L := by rw [← toNat_sint32 hnonneg, sint32, hopa, Int.toNat_natCast]
  subst hL
  rw [posStart, runCommand_attached _ _ _ hattach, bodyCalc_fits hnonneg hspan, finish]

/-- Settles O14: the rows differ in the remainder's width alone, and a remainder of width 32 is RESULT itself. -/
theorem calcCompletes : Obligations.CalcCompletes := by
  intro s ptr L hattach hopa hspan
  have h32 : exec (.calc32 ptr) s =
      .next (flagsOk (setResult ((chk s.frame ptr L (s.poly.setWidth 32)).setWidth 32) s)) :=
    runCommand_calc_fits hattach hopa hspan
  rw [BitVec.setWidth_eq, BitVec.setWidth_eq] at h32
  exact ⟨runCommand_calc_fits hattach hopa hspan, h32⟩

/-! ## One step of CHK -/

section

variable {W : Nat} (P r r' : BitVec W)

theorem ite_bxor (a b : Bool) : (if a ^^ b then P else 0#W) = (if a then P else 0#W) ^^^ if b then P else 0#W := by
  cases a <;> cases b <;> simp

/-- A step shifts, then adds the generator where the bit shifted out and the message bit differ (41_checksum_engine.md
R143). -/
theorem chkStep_eq (b : Bool) : chkStep P r b = (r <<< 1) ^^^ if r.getLsbD (W - 1) ^^ b then P else 0#W := by
  rw [chkStep]
  split_ifs <;> simp

/-- The step is linear over GF(2) in remainder and message bit together (41_checksum_engine.md R148). -/
theorem chkStep_xor (b b' : Bool) : chkStep P (r ^^^ r') (b ^^ b') = chkStep P r b ^^^ chkStep P r' b' := by
  simp only [chkStep_eq, BitVec.getLsbD_xor, BitVec.shiftLeft_xor_distrib, ite_bxor]
  ac_rfl

/-- A step of the byte-serial form is a step of CHK on the message bit 0. -/
@[simp] theorem chkStep_false : chkStep P r false = shiftStep P r := by rw [chkStep, shiftStep, Bool.xor_false]

theorem chkStep_zero (b : Bool) : chkStep P 0#W b = if b then P else 0#W := by simp [chkStep_eq]

@[simp] theorem shiftStep_zero : shiftStep P 0#W = 0#W := by
  rw [← chkStep_false, chkStep_zero, if_neg Bool.false_ne_true]

theorem shiftStep_xor : shiftStep P (r ^^^ r') = shiftStep P r ^^^ shiftStep P r' := by
  simpa using chkStep_xor P r r' false false

/-- A step of CHK is a step of the byte-serial form, then the generator where the message bit is 1. -/
theorem chkStep_eq_shiftStep_xor (b : Bool) : chkStep P r b = shiftStep P r ^^^ if b then P else 0#W := by
  simpa [chkStep_zero] using chkStep_xor P r 0#W false b

/-! ## CHK of a sequence of message bits -/

@[simp] theorem chkBits_nil : chkBits P [] = 0#W := rfl

theorem chkBits_concat (bits : List Bool) (b : Bool) : chkBits P (bits ++ [b]) = chkStep P (chkBits P bits) b :=
  List.foldl_concat ..

/-- The division is linear over GF(2) in the message bits (41_checksum_engine.md R148). -/
theorem foldl_chkStep_map_xor {α : Type} (ks : List α) (f g : α → Bool) :
    (ks.map fun k => f k ^^ g k).foldl (chkStep P) (r ^^^ r') =
      (ks.map f).foldl (chkStep P) r ^^^ (ks.map g).foldl (chkStep P) r' := by
  induction ks generalizing r r' with
  | nil => rfl
  | cons k ks ih => simp only [List.map_cons, List.foldl_cons, chkStep_xor, ih]

theorem chkBits_map_xor {α : Type} (ks : List α) (f g : α → Bool) :
    chkBits P (ks.map fun k => f k ^^ g k) = chkBits P (ks.map f) ^^^ chkBits P (ks.map g) := by
  simpa [chkBits] using foldl_chkStep_map_xor P 0#W 0#W ks f g

theorem chkBits_replicate_false (n : Nat) : chkBits P (List.replicate n false) = 0#W := by
  induction n with
  | zero => rfl
  | succ n ih => rw [List.replicate_succ', chkBits_concat, ih, chkStep_false, shiftStep_zero]

/-- Zeros before the message do not change the remainder (41_checksum_engine.md R145). -/
theorem chkBits_replicate_false_append (n : Nat) (bits : List Bool) :
    chkBits P (List.replicate n false ++ bits) = chkBits P bits := by
  have hzeros := chkBits_replicate_false P n
  rw [chkBits] at hzeros
  rw [chkBits, List.foldl_append, hzeros]
  rfl

theorem chkBits_poly_zero (bits : List Bool) : chkBits (0#W) bits = 0#W := by
  induction bits using List.reverseRecOn with
  | nil => rfl
  | append_singleton bits b ih => simp [chkBits_concat, ih, chkStep]

end

/-! ## The domain -/

/-- `b_k`, message bit `k` of a span (41_checksum_engine.md R142). -/
def messageBit (m : Memory) (ptr L k : Nat) : Bool := getBit m (8 * ptr + (8 * ((L + 7) / 8) - L) + k)

theorem chk_eq {W : Nat} (m : Memory) (ptr L : Nat) (P : BitVec W) :
    chk m ptr L P = chkBits P ((List.range L).map (messageBit m ptr L)) := rfl

theorem chk_of_messageBit {W : Nat} {m : Memory} {ptr L : Nat} {f : Nat → Bool} (P : BitVec W)
    (h : ∀ k, k < L → messageBit m ptr L k = f k) : chk m ptr L P = chkBits P ((List.range L).map f) :=
  congrArg (chkBits P) (List.map_congr_left fun k hk => h k (List.mem_range.mp hk))

/-- Settles O17: a step is linear and the domain's bits are all that CHK reads. -/
theorem chkIsLinearInItsDomain : Obligations.ChkIsLinearInItsDomain := by
  refine ⟨fun m m' e ptr L W P _ h => ?_, fun m m' ptr L W P h => ?_, fun m ptr L W => chkBits_poly_zero _⟩
  · rw [chk_of_messageBit (f := fun k => messageBit m ptr L k ^^ messageBit e ptr L k) P h, chkBits_map_xor, chk_eq, chk_eq]
  · exact chk_of_messageBit (f := messageBit m ptr L) P h

/-! ## A single changed bit -/

theorem getLsbD_shiftLeft_one_low {W j : Nat} {r : BitVec W} (hr : ∀ i, i < j → r.getLsbD i = false) :
    ∀ i, i ≤ j → (r <<< 1).getLsbD i = false := by
  intro i hi
  cases i with
  | zero => simp
  | succ i => simp [hr i hi]

/-- Where the bits of remainder and generator below `j` are 0, a step keeps them 0. -/
theorem getLsbD_shiftStep_low {W j : Nat} {P r : BitVec W} (hP : ∀ i, i < j → P.getLsbD i = false)
    (hr : ∀ i, i < j → r.getLsbD i = false) : ∀ i, i < j → (shiftStep P r).getLsbD i = false := by
  intro i hi
  have hshift := getLsbD_shiftLeft_one_low hr i hi.le
  rw [shiftStep]
  split_ifs
  · rw [BitVec.getLsbD_xor, hshift, hP i hi, Bool.xor_false]
  · exact hshift

/-- No step brings a remainder other than 0 to 0 while its bits below the generator's lowest one are 0: a 1 shifted out
comes back in the place of that lowest one, and with a 0 shifted out no 1 is lost. -/
theorem shiftStep_ne_zero {W j : Nat} {P r : BitVec W} (hj : P.getLsbD j = true) (hr : r ≠ 0#W)
    (hlow : ∀ i, i < j → r.getLsbD i = false) : shiftStep P r ≠ 0#W := by
  intro hzero
  cases htop : r.getLsbD (W - 1) with
  | true =>
    have hbit : (shiftStep P r).getLsbD j = true := by
      rw [shiftStep, if_pos htop, BitVec.getLsbD_xor, hj, getLsbD_shiftLeft_one_low hlow j le_rfl, Bool.false_xor]
    rw [hzero, BitVec.getLsbD_zero] at hbit
    exact Bool.false_ne_true hbit
  | false =>
    rw [shiftStep, htop, if_neg Bool.false_ne_true] at hzero
    refine hr (BitVec.eq_of_getLsbD_eq fun i hi => ?_)
    by_cases hlast : i = W - 1
    · rw [hlast, htop, BitVec.getLsbD_zero]
    · have hbit : (r <<< 1).getLsbD (i + 1) = false := by rw [hzero, BitVec.getLsbD_zero]
      simpa [show i + 1 < W by omega, hi] using hbit

/-- The lowest 1 of a generator that is not 0. -/
theorem exists_lowest_bit {W : Nat} {P : BitVec W} (hP : P ≠ 0#W) :
    ∃ j, P.getLsbD j = true ∧ ∀ i, i < j → P.getLsbD i = false := by
  have hone : ∃ j, P.getLsbD j = true := by
    by_contra hnone
    exact hP (BitVec.eq_of_getLsbD_eq fun i _ => by simpa using not_exists.mp hnone i)
  exact ⟨Nat.find hone, Nat.find_spec hone, fun i hi => by simpa using Nat.find_min hone hi⟩

theorem map_range_eq_replicate_false {f : Nat → Bool} {n : Nat} (h : ∀ k, k < n → f k = false) :
    (List.range n).map f = List.replicate n false := by
  simpa [List.eq_replicate_iff] using h

/-- `L` message bits, all 0 but bit `n`. -/
def loneBit (n L : Nat) : List Bool := (List.range L).map fun k => decide (k = n)

theorem loneBit_self_succ (n : Nat) : loneBit n (n + 1) = List.replicate n false ++ [true] := by
  simp [loneBit, List.range_succ, map_range_eq_replicate_false fun k (hk : k < n) => decide_eq_false hk.ne]

theorem loneBit_succ {n L : Nat} (h : n < L) : loneBit n (L + 1) = loneBit n L ++ [false] := by
  simp [loneBit, List.range_succ, h.ne']

/-- The remainder of a lone 1 is not 0 (41_checksum_engine.md R148): it starts as the generator, and only shift steps
follow. -/
theorem chkBits_loneBit_ne_zero {W : Nat} {P : BitVec W} (hP : P ≠ 0#W) {n L : Nat} (hn : n < L) :
    chkBits P (loneBit n L) ≠ 0#W := by
  obtain ⟨j, hj, hlowP⟩ := exists_lowest_bit hP
  suffices h : chkBits P (loneBit n L) ≠ 0#W ∧ ∀ i, i < j → (chkBits P (loneBit n L)).getLsbD i = false from h.1
  induction L, hn using Nat.le_induction with
  | base =>
    rw [loneBit_self_succ, chkBits_concat, chkBits_replicate_false, chkStep_zero, if_pos rfl]
    exact ⟨hP, hlowP⟩
  | succ L hL ih =>
    obtain ⟨hne, hlow⟩ := ih
    rw [loneBit_succ hL, chkBits_concat, chkStep_false]
    exact ⟨shiftStep_ne_zero hj hne hlow, getLsbD_shiftStep_low hlowP hlow⟩

/-- Settles O18: by linearity the two checksums differ by that of the changed bit alone. -/
theorem singleBitChangeIsDetected : Obligations.SingleBitChangeIsDetected := by
  intro m m' ptr L W n P _ hP hn h heq
  have hbits : ∀ k, k < L → messageBit m' ptr L k = (messageBit m ptr L k ^^ decide (k = n)) := by
    intro k hk
    have hk : messageBit m' ptr L k ≠ messageBit m ptr L k ↔ k = n := h k hk
    by_cases hkn : k = n
    · rw [Bool.eq_not_of_ne (hk.mpr hkn), decide_eq_true hkn, Bool.xor_true]
    · simpa [hkn] using hk
  have hdiff : chk m' ptr L P = chk m ptr L P ^^^ chkBits P (loneBit n L) := by
    rw [chk_of_messageBit P hbits, chkBits_map_xor, chk_eq, loneBit]
  refine chkBits_loneBit_ne_zero hP hn ?_
  rw [heq] at hdiff
  exact (BitVec.xor_right_inj (chk m ptr L P)).mp (hdiff.symm.trans BitVec.xor_zero.symm)

/-! ## The byte-serial form -/

/-- Adding the place value of the top bit flips that bit and no other. -/
theorem ofNat_two_pow_add {W : Nat} (hW : 0 < W) (x : Nat) :
    BitVec.ofNat W (2 ^ (W - 1) + x) = BitVec.twoPow W (W - 1) ^^^ BitVec.ofNat W x := by
  apply BitVec.eq_of_getLsbD_eq
  intro i hi
  obtain rfl | hlt : i = W - 1 ∨ i < W - 1 := by omega
  · simp only [BitVec.getLsbD_xor, BitVec.getLsbD_ofNat, BitVec.getLsbD_twoPow, Nat.testBit_two_pow_add_eq, hi]
    simp
  · simp only [BitVec.getLsbD_xor, BitVec.getLsbD_ofNat, BitVec.getLsbD_twoPow, Nat.testBit_two_pow_add_gt hlt, hlt.ne']
    simp

/-- A message bit XORed into the top bit and then shifted is a step of CHK (41_checksum_engine.md R145). -/
theorem shiftStep_xor_top {W : Nat} (hW : 0 < W) (P r : BitVec W) (b : Bool) :
    shiftStep P (r ^^^ if b then BitVec.twoPow W (W - 1) else 0#W) = chkStep P r b := by
  have hout : BitVec.twoPow W (W - 1) <<< 1 = 0#W := by
    rw [BitVec.twoPow_eq, ← BitVec.shiftLeft_add, Nat.sub_add_cancel hW, BitVec.shiftLeft_eq_zero le_rfl]
  rw [shiftStep_xor, chkStep_eq_shiftStep_xor]
  cases b with
  | false => simp
  | true => simp [shiftStep, hW, hout]

/-- A step on a remainder with its top bit 0 doubles it. -/
theorem shiftStep_ofNat {W : Nat} (P : BitVec W) {x : Nat} (hx : x < 2 ^ (W - 1)) :
    shiftStep P (BitVec.ofNat W x) = BitVec.ofNat W (x * 2) := by
  have htop : (BitVec.ofNat W x).getLsbD (W - 1) = false := by
    simp [BitVec.getLsbD_ofNat, Nat.testBit_lt_two_pow hx]
  rw [shiftStep, htop, if_neg Bool.false_ne_true]
  apply BitVec.eq_of_toNat_eq
  rw [BitVec.toNat_shiftLeft, Nat.shiftLeft_eq, BitVec.toNat_ofNat, BitVec.toNat_ofNat, Nat.mod_mul_mod, pow_one]

theorem foldl_chunkValue (bits : List Bool) (v : Nat) :
    bits.foldl (fun v b => 2 * v + b.toNat) v = v * 2 ^ bits.length + chunkValue bits := by
  induction bits generalizing v with
  | nil => simp [chunkValue]
  | cons b bits ih =>
    rw [chunkValue, List.foldl_cons, List.foldl_cons, ih, ih, List.length_cons, pow_succ]
    ring

/-- The first bit of a chunk is the most significant. -/
theorem chunkValue_cons (b : Bool) (bits : List Bool) :
    chunkValue (b :: bits) = b.toNat * 2 ^ bits.length + chunkValue bits := by
  rw [chunkValue, List.foldl_cons, foldl_chunkValue]
  simp

theorem chunkValue_lt (bits : List Bool) : chunkValue bits < 2 ^ bits.length := by
  induction bits with
  | nil => decide
  | cons b bits ih =>
    rw [chunkValue_cons, List.length_cons, pow_succ]
    cases b <;> simp <;> omega

/-- A chunk aligned to the top of the remainder: its first bit at the top, its other bits below it. -/
theorem ofNat_chunkValue_cons {W d : Nat} (b : Bool) {bits : List Bool} (h : W = d + bits.length + 1) :
    BitVec.ofNat W (chunkValue (b :: bits) * 2 ^ d) =
      (if b then BitVec.twoPow W (W - 1) else 0#W) ^^^ BitVec.ofNat W (chunkValue bits * 2 ^ d) := by
  rw [chunkValue_cons]
  cases b with
  | false => simp
  | true =>
    have htop : (true.toNat * 2 ^ bits.length + chunkValue bits) * 2 ^ d = 2 ^ (W - 1) + chunkValue bits * 2 ^ d := by
      rw [h, Nat.add_sub_cancel, Bool.toNat_true, pow_add]
      ring
    rw [htop, ofNat_two_pow_add (by omega), if_pos rfl]

/-- The bits below the top one move up one place. -/
theorem shiftStep_ofNat_chunkValue {W d : Nat} (P : BitVec W) {bits : List Bool} (h : W = d + bits.length + 1) :
    shiftStep P (BitVec.ofNat W (chunkValue bits * 2 ^ d)) = BitVec.ofNat W (chunkValue bits * 2 ^ (d + 1)) := by
  rw [pow_succ, ← mul_assoc]
  refine shiftStep_ofNat P ?_
  rw [h, Nat.add_sub_cancel, pow_add, mul_comm (2 ^ d)]
  exact Nat.mul_lt_mul_of_pos_right (chunkValue_lt bits) (Nat.two_pow_pos d)

/-- The first bit of a chunk is one step of CHK (41_checksum_engine.md R145). -/
theorem chunkStep_cons {W : Nat} (P r : BitVec W) (b : Bool) {bits : List Bool} (h : bits.length < W) :
    chunkStep P r (b :: bits) = chunkStep P (chkStep P r b) bits := by
  obtain ⟨d, hd⟩ : ∃ d, W = d + bits.length + 1 := ⟨W - bits.length - 1, by omega⟩
  have hplace : W - (b :: bits).length = d := by rw [List.length_cons]; omega
  have hplace' : W - bits.length = d + 1 := by omega
  rw [chunkStep, chunkStep, hplace, hplace', List.length_cons, shiftSteps, ofNat_chunkValue_cons b hd, ← BitVec.xor_assoc,
    shiftStep_xor, shiftStep_xor_top (by omega), shiftStep_ofNat_chunkValue P hd]

/-- A chunk that fits the remainder is its bits' steps of CHK, one after the other (41_checksum_engine.md R145). -/
theorem chunkStep_eq_foldl {W : Nat} (P r : BitVec W) {bits : List Bool} (h : bits.length ≤ W) :
    chunkStep P r bits = bits.foldl (chkStep P) r := by
  induction bits generalizing r with
  | nil => simp [chunkStep, chunkValue, shiftSteps]
  | cons b bits ih =>
    rw [List.length_cons] at h
    rw [chunkStep_cons P r b (by omega), ih _ (by omega), List.foldl_cons]

theorem foldl_chunkStep_eq_foldl {W : Nat} (P r : BitVec W) {chunks : List (List Bool)}
    (h : ∀ chunk ∈ chunks, chunk.length ≤ W) : chunks.foldl (chunkStep P) r = chunks.flatten.foldl (chkStep P) r := by
  induction chunks generalizing r with
  | nil => rfl
  | cons chunk chunks ih =>
    obtain ⟨hchunk, hrest⟩ := List.forall_mem_cons.mp h
    rw [List.foldl_cons, chunkStep_eq_foldl P r hchunk, ih _ hrest, List.flatten_cons, List.foldl_append]

/-- The domain of a span's whole bytes starts at the span's first bit (41_checksum_engine.md R142). -/
theorem messageBit_wholeBytes (m : Memory) (ptr n k : Nat) : messageBit m ptr (8 * n) k = getBit m (8 * ptr + k) := by
  rw [messageBit, show 8 * ((8 * n + 7) / 8) - 8 * n = 0 by omega, Nat.add_zero]

/-- CHK of a span's whole bytes, the bits before the message cleared (41_checksum_engine.md R145). -/
theorem chk_wholeBytes {W : Nat} {m m' : Memory} {ptr L : Nat} (P : BitVec W)
    (hlead : ∀ q, 8 * ptr ≤ q → q < 8 * ptr + (8 * ((L + 7) / 8) - L) → getBit m' q = false)
    (hsame : ∀ q, 8 * ptr + (8 * ((L + 7) / 8) - L) ≤ q → getBit m' q = getBit m q) :
    chk m' ptr (8 * ((L + 7) / 8)) P = chk m ptr L P := by
  obtain ⟨lead, hlead_eq⟩ : ∃ lead, 8 * ((L + 7) / 8) - L = lead := ⟨_, rfl⟩
  have hbytes : 8 * ((L + 7) / 8) = lead + L := by omega
  rw [hlead_eq] at hlead hsame
  have hzeros : (List.range lead).map (fun k => getBit m' (8 * ptr + k)) = List.replicate lead false :=
    map_range_eq_replicate_false fun k hk => hlead _ (Nat.le_add_right ..) (Nat.add_lt_add_left hk _)
  have hmessage : ∀ k, messageBit m ptr L k = getBit m' (8 * ptr + (lead + k)) := by
    intro k
    rw [messageBit, hlead_eq, ← Nat.add_assoc, hsame _ (Nat.le_add_right ..)]
  rw [chk_of_messageBit P fun k _ => messageBit_wholeBytes m' ptr _ k, chk_of_messageBit P fun k _ => hmessage k, hbytes,
    List.range_add, List.map_append, List.map_map, hzeros, chkBits_replicate_false_append]
  rfl

/-- Settles O16: a chunk is its bits' steps, and cleared bits before the message are zeros before it. -/
theorem byteSerialFormAgrees : Obligations.ByteSerialFormAgrees := by
  refine ⟨fun W P chunks hW h => foldl_chunkStep_eq_foldl P 0#W fun chunk hchunk => ?_,
    fun m m' ptr L W P _ hlead hsame => (chk_wholeBytes P hlead hsame).symm⟩
  obtain ⟨-, hle⟩ := h chunk hchunk
  omega

/-! ## The closed form -/

section

open Polynomial

/-- A bit as a constant polynomial over GF(2). -/
noncomputable def bitPoly (b : Bool) : (ZMod 2)[X] := if b then 1 else 0

theorem bitPoly_xor (a b : Bool) : bitPoly (a ^^ b) = bitPoly a + bitPoly b := by
  cases a <;> cases b <;> simp [bitPoly, CharTwo.add_self_eq_zero]

/-- The polynomial whose coefficient of `x^j` is bit `j` (41_checksum_engine.md R144). -/
noncomputable def remainderPoly {W : Nat} (r : BitVec W) : (ZMod 2)[X] :=
  ∑ j ∈ Finset.range W, if r.getLsbD j = true then X ^ j else 0

/-- The polynomial of message bits `f 0 .. f (L-1)`, first bit at the highest power (41_checksum_engine.md R144). -/
noncomputable def messagePoly (f : Nat → Bool) (L : Nat) : (ZMod 2)[X] :=
  ∑ k ∈ Finset.range L, if f k = true then X ^ (L - 1 - k) else 0

theorem coeff_remainderPoly {W : Nat} (r : BitVec W) (i : Nat) :
    (remainderPoly r).coeff i = if r.getLsbD i = true then 1 else 0 := by
  have hterm : ∀ j, (if r.getLsbD j = true then (X : (ZMod 2)[X]) ^ j else 0).coeff i =
      if i = j then (if r.getLsbD i = true then 1 else 0) else 0 := by
    intro j
    by_cases hij : i = j
    · subst hij
      rw [if_pos rfl]
      split_ifs <;> simp
    · split_ifs <;> simp [coeff_X_pow, hij]
  rw [remainderPoly, finsetSum_coeff, Finset.sum_congr rfl fun j _ => hterm j, Finset.sum_ite_eq]
  by_cases hi : i < W
  · rw [if_pos (Finset.mem_range.mpr hi)]
  · simp [hi, BitVec.getLsbD_of_ge r i (by omega)]

theorem degree_remainderPoly_lt {W : Nat} (r : BitVec W) : (remainderPoly r).degree < W := by
  rw [degree_lt_iff_coeff_zero]
  intro i hi
  rw [coeff_remainderPoly, BitVec.getLsbD_of_ge r i hi, if_neg Bool.false_ne_true]

/-- `G(x)`: `x^W` and the generator's low bits (41_checksum_engine.md R144). -/
noncomputable def generatorPoly {W : Nat} (P : BitVec W) : (ZMod 2)[X] := X ^ W + remainderPoly P

theorem generatorPoly_monic {W : Nat} (P : BitVec W) : (generatorPoly P).Monic :=
  monic_X_pow_add (degree_remainderPoly_lt P)

theorem degree_generatorPoly {W : Nat} (P : BitVec W) : (generatorPoly P).degree = W := by
  have hlt : (remainderPoly P).degree < ((X : (ZMod 2)[X]) ^ W).degree := by
    rw [degree_X_pow]
    exact degree_remainderPoly_lt P
  rw [generatorPoly, degree_add_eq_left_of_degree_lt hlt, degree_X_pow]

theorem remainderPoly_xor {W : Nat} (r r' : BitVec W) :
    remainderPoly (r ^^^ r') = remainderPoly r + remainderPoly r' := by
  ext i
  rw [coeff_add, coeff_remainderPoly, coeff_remainderPoly, coeff_remainderPoly, BitVec.getLsbD_xor]
  cases r.getLsbD i <;> cases r'.getLsbD i <;> simp [CharTwo.add_self_eq_zero]

@[simp] theorem remainderPoly_zero (W : Nat) : remainderPoly 0#W = 0 := by simp [remainderPoly]

theorem remainderPoly_ite {W : Nat} (b : Bool) (r : BitVec W) :
    remainderPoly (if b then r else 0#W) = bitPoly b * remainderPoly r := by
  cases b <;> simp [bitPoly]

/-- A shift multiplies by `x` and drops the bit shifted out, which stands for `x^W`. -/
theorem remainderPoly_shiftLeft {W : Nat} (hW : 0 < W) (r : BitVec W) :
    remainderPoly (r <<< 1) = X * remainderPoly r + bitPoly (r.getLsbD (W - 1)) * X ^ W := by
  ext i
  have hout : (bitPoly (r.getLsbD (W - 1)) * X ^ W).coeff i =
      if i = W ∧ r.getLsbD (W - 1) = true then 1 else 0 := by
    cases r.getLsbD (W - 1) <;> simp [bitPoly, coeff_X_pow]
  rw [coeff_add, coeff_remainderPoly, hout, BitVec.getLsbD_shiftLeft]
  cases i with
  | zero => simp [hW.ne]
  | succ i =>
    rw [coeff_X_mul, coeff_remainderPoly]
    obtain hlt | rfl | hgt := lt_trichotomy (i + 1) W
    · simp [hlt, hlt.ne]
    · rw [Nat.add_sub_cancel]
      cases r.getLsbD i <;> simp [CharTwo.add_self_eq_zero]
    · simp [hgt.ne', BitVec.getLsbD_of_ge r i (by omega)]

theorem remainderPoly_chkStep {W : Nat} (hW : 0 < W) (P r : BitVec W) (b : Bool) :
    remainderPoly (chkStep P r b) = X * remainderPoly r + bitPoly (r.getLsbD (W - 1)) * X ^ W +
      (bitPoly (r.getLsbD (W - 1)) + bitPoly b) * remainderPoly P := by
  rw [chkStep_eq, remainderPoly_xor, remainderPoly_shiftLeft hW, remainderPoly_ite, bitPoly_xor]

theorem messagePoly_succ (f : Nat → Bool) (L : Nat) :
    messagePoly f (L + 1) = X * messagePoly f L + bitPoly (f L) := by
  have hterm : ∀ k ∈ Finset.range L, (if f k = true then (X : (ZMod 2)[X]) ^ (L + 1 - 1 - k) else 0) =
      X * if f k = true then X ^ (L - 1 - k) else 0 := by
    intro k hk
    have hk : L - k = L - 1 - k + 1 := by have := Finset.mem_range.mp hk; omega
    split_ifs
    · rw [Nat.add_sub_cancel, hk, pow_succ']
    · rw [mul_zero]
  rw [messagePoly, Finset.sum_range_succ, Finset.sum_congr rfl hterm, ← Finset.mul_sum, Nat.add_sub_cancel, Nat.sub_self,
    pow_zero]
  rfl

/-- The generator divides the message's polynomial times `x^W` plus the remainder's (41_checksum_engine.md R144). -/
theorem generatorPoly_dvd {W : Nat} (hW : 0 < W) (P : BitVec W) (f : Nat → Bool) (L : Nat) :
    generatorPoly P ∣ messagePoly f L * X ^ W + remainderPoly (chkBits P ((List.range L).map f)) := by
  induction L with
  | zero => simp [messagePoly]
  | succ L ih =>
    rw [List.range_succ, List.map_append, List.map_singleton, chkBits_concat, remainderPoly_chkStep hW, messagePoly_succ]
    generalize chkBits P ((List.range L).map f) = r at ih ⊢
    have hnext : (X * messagePoly f L + bitPoly (f L)) * X ^ W + (X * remainderPoly r +
          bitPoly (r.getLsbD (W - 1)) * X ^ W + (bitPoly (r.getLsbD (W - 1)) + bitPoly (f L)) * remainderPoly P) =
        X * (messagePoly f L * X ^ W + remainderPoly r) +
          (bitPoly (r.getLsbD (W - 1)) + bitPoly (f L)) * generatorPoly P := by
      rw [generatorPoly]
      ring
    rw [hnext]
    exact dvd_add (dvd_mul_of_dvd_right ih X) (dvd_mul_left _ _)

theorem messagePoly_modByMonic {W : Nat} (hW : 0 < W) (P : BitVec W) (f : Nat → Bool) (L : Nat) :
    messagePoly f L * X ^ W %ₘ generatorPoly P = remainderPoly (chkBits P ((List.range L).map f)) := by
  have hdvd := generatorPoly_dvd hW P f L
  rw [← CharTwo.sub_eq_add] at hdvd
  rw [modByMonic_eq_of_dvd_sub (generatorPoly_monic P) hdvd, modByMonic_eq_self_iff (generatorPoly_monic P),
    degree_generatorPoly]
  exact degree_remainderPoly_lt _

/-- Settles O15: the remainder of the division is the polynomial of CHK's bits. -/
theorem chkIsThePolynomialRemainder : Obligations.ChkIsThePolynomialRemainder := by
  refine ⟨fun m ptr L W P M G hW hM hG i _ => ?_, fun _ _ _ _ => rfl⟩
  have hremainder : M * X ^ W %ₘ G = remainderPoly (chk m ptr L P) := by
    subst hM hG
    exact messagePoly_modByMonic (by omega) P (messageBit m ptr L) L
  rw [hremainder, coeff_remainderPoly]
  cases (chk m ptr L P).getLsbD i <;> simp

end

end Sys2Proof.Machine

/-! # The family of 42_field_encoder.md: SETACQ, SETDATE, SETLOC and SETUSER

Each encoder is a list of consecutive fields given to `encodeFields`, so what such a list leaves in the frame and what its
command answers is said once, of any list and of both forms; an obligation then only reads its own list off. SETUSER's
list is first rewritten in the words of the rules (`userFields_eq`), and what it reads of USERBUF follows from that. -/

namespace Sys2Proof.Machine

/-! ## Consecutive fields after they are written -/

/-- Every one of the consecutive fields from position `p` holds its value (42_field_encoder.md R160). -/
def FieldsHold (m : Memory) (p : Nat) : List (Nat × Nat) → Prop
  | [] => True
  | (w, v) :: rest => FieldHolds m p w v ∧ FieldsHold m (p + w) rest

/-- A field is as it was written once the fields after it are written too. -/
theorem fieldsHold_putFields (fs : List (Nat × Nat)) (m : Memory) (p : Nat) : FieldsHold (putFields m p fs) p fs := by
  induction fs generalizing m p with
  | nil => trivial
  | cons f rest ih =>
    obtain ⟨w, v⟩ := f
    refine ⟨fun i hi => ?_, ih _ _⟩
    rw [putFields, getBit_putFields_outside rest _ _ _ (.inl (by omega)), fieldHolds_putField m p w v i hi]

theorem keptOutside_putFields (fs : List (Nat × Nat)) (m : Memory) (p : Nat) :
    KeptOutside m (putFields m p fs) p (totalWidth fs) :=
  ⟨fun q hq => getBit_putFields_outside fs m p q hq, fun a ha => readByte_putFields_outside fs m p a ha⟩

theorem fieldsHold_append {m : Memory} {p : Nat} {fs gs : List (Nat × Nat)} :
    FieldsHold m p (fs ++ gs) ↔ FieldsHold m p fs ∧ FieldsHold m (p + totalWidth fs) gs := by
  induction fs generalizing p with
  | nil => simp [FieldsHold, totalWidth]
  | cons f rest ih => simp [FieldsHold, totalWidth, ih, and_assoc, Nat.add_assoc]

/-- Consecutive byte fields, byte `i` with the value `f i`. -/
def byteFields (f : Nat → Nat) (n : Nat) : List (Nat × Nat) := (List.range n).map fun i => (8, f i)

theorem byteFields_succ (f : Nat → Nat) (n : Nat) : byteFields f (n + 1) = byteFields f n ++ [(8, f n)] := by
  rw [byteFields, List.range_succ, List.map_append]
  rfl

theorem totalWidth_byteFields (f : Nat → Nat) (n : Nat) : totalWidth (byteFields f n) = 8 * n := by
  induction n with
  | zero => rfl
  | succ n ih =>
    rw [byteFields_succ, totalWidth_append, ih]
    rfl

theorem byteFields_congr {f g : Nat → Nat} {n : Nat} (h : ∀ k, k < n → f k = g k) : byteFields f n = byteFields g n :=
  List.map_congr_left fun k hk => by rw [h k (List.mem_range.mp hk)]

theorem fieldHolds_of_byteFields {m : Memory} {p n k : Nat} {f : Nat → Nat} (h : FieldsHold m p (byteFields f n))
    (hk : k < n) : FieldHolds m (p + 8 * k) 8 (f k) := by
  induction n with
  | zero => omega
  | succ n ih =>
    rw [byteFields_succ, fieldsHold_append, totalWidth_byteFields] at h
    obtain ⟨hbelow, hlast, -⟩ := h
    obtain hlt | rfl : k < n ∨ k = n := by omega
    · exact ih hbelow hlt
    · exact hlast

/-! ## The encoders in their two forms -/

/-- A form whose body writes consecutive fields completes where they lie inside the frame (42_field_encoder.md R160). -/
theorem exec_encoder_completes {i : Instr} {s : State} {p bits : Nat} {fields : List (Nat × Nat)}
    (hattach : s.attach = true) (hstart : commandStart i s = some p) (hbody : commandBody i p s = encodeFields fields p s)
    (hwidth : totalWidth fields = bits) (hbits : 0 < bits) (hfit : p + bits ≤ frameBits s) :
    ∃ t, exec i s = .next t ∧ FieldsHold t.frame p fields ∧ WroteField s t p bits := by
  subst hwidth
  rw [exec_eq_runCommand, hstart, runCommand_attached _ _ _ hattach, hbody, encodeFields_fits hfit]
  exact ⟨_, rfl, fieldsHold_putFields fields s.frame p,
    wroteField_flagsOk hbits hfit (keptOutside_putFields fields s.frame p)⟩

/-- The start of a `.T` form, by the variant's table (30_encoding.md R98). -/
theorem tableStart_eq {s : State} {v : Variant} (hv : s.actVariant = v) (field : FieldType) :
    tableStart field s = (descriptor (layout v s.actBch) field).map (·.offset) := by
  rw [tableStart, activeLayout, hv]

/-- Every frame has at least the 27 bytes of the shortest ones (43_frame_assembler.md R191). -/
theorem frameBits_ge (s : State) : 216 ≤ frameBits s := by
  rw [frameBits_eq]
  obtain h | h := flen_cases s <;> omega

/-! ## SETACQ, SETDATE and SETLOC -/

section

variable {i : Instr} {s : State} {p : Nat} (hattach : s.attach = true) (hstart : commandStart i s = some p)
include hattach hstart

theorem exec_setAcq_completes (hbody : commandBody i = bodySetAcq) (hfit : p + 3 ≤ frameBits s) :
    ∃ t, exec i s = .next t ∧ FieldHolds t.frame p 3 s.opa.toNat ∧ WroteField s t p 3 := by
  obtain ⟨t, ht, ⟨hacq, -⟩, hwrote⟩ :=
    exec_encoder_completes hattach hstart (bits := 3) (congrFun₂ hbody p s) rfl (by decide) hfit
  exact ⟨t, ht, hacq, hwrote⟩

theorem exec_setDate_completes (hbody : commandBody i = bodySetDate) (hfit : p + 16 ≤ frameBits s) :
    ∃ t, exec i s = .next t ∧ FieldHolds t.frame p 5 s.opa.toNat ∧ FieldHolds t.frame (p + 5) 5 s.opb.toNat ∧
      FieldHolds t.frame (p + 10) 6 s.opc.toNat ∧ WroteField s t p 16 := by
  obtain ⟨t, ht, ⟨hday, hhour, hminute, -⟩, hwrote⟩ :=
    exec_encoder_completes hattach hstart (bits := 16) (congrFun₂ hbody p s) rfl (by decide) hfit
  exact ⟨t, ht, hday, hhour, hminute, hwrote⟩

theorem exec_setLoc_completes (hbody : commandBody i = bodySetLoc) (hfit : p + 53 ≤ frameBits s) :
    ∃ t, exec i s = .next t ∧ FieldHolds t.frame p 22 (lonCode s.opa.toInt) ∧
      FieldHolds t.frame (p + 22) 21 (latCode s.opb.toInt) ∧ FieldHolds t.frame (p + 43) 10 (altCode s.opc.toInt) ∧
      WroteField s t p 53 := by
  obtain ⟨t, ht, ⟨hlon, hlat, halt, -⟩, hwrote⟩ :=
    exec_encoder_completes hattach hstart (bits := 53) (congrFun₂ hbody p s) rfl (by decide) hfit
  exact ⟨t, ht, hlon, hlat, halt, hwrote⟩

end

/-- Settles O19: one field from POS, or from the AcqPeriod offset of the active table. -/
theorem setAcqCompletes : Obligations.SetAcqCompletes := by
  intro s hattach
  refine ⟨fun p hfit => exec_setAcq_completes hattach rfl rfl hfit, fun hv => ?_, fun hv => ?_⟩ <;>
  exact exec_setAcq_completes hattach (tableStart_eq hv .acqPeriod) rfl (le_trans (by decide) (frameBits_ge s))

/-- Settles O20: three fields from POS, or from the Day offset of the active table. -/
theorem setDateCompletes : Obligations.SetDateCompletes := by
  intro s hattach
  refine ⟨fun p hfit => exec_setDate_completes hattach rfl rfl hfit, ?_⟩
  rintro p (⟨hv, rfl⟩ | ⟨hv, rfl⟩) <;>
  exact exec_setDate_completes hattach (tableStart_eq hv .day) rfl (le_trans (by decide) (frameBits_ge s))

/-- Settles O21: three fields from POS, or from the Longitude offset of the active table. -/
theorem setLocCompletes : Obligations.SetLocCompletes := by
  intro s hattach
  refine ⟨fun p hfit => exec_setLoc_completes hattach rfl rfl hfit, ?_⟩
  rintro p (⟨hv, rfl⟩ | ⟨hv, rfl⟩) <;>
  exact exec_setLoc_completes hattach (tableStart_eq hv .longitude) rfl (le_trans (by decide) (frameBits_ge s))

/-! ## The location codes -/

/-- A magnitude with the sign joined to bit `w`, cut to `w + 1` bits (42_field_encoder.md R165). -/
theorem testBit_signMagnitude (x : Int) (w i : Nat) :
    ((x.natAbs ||| if x < 0 then 2 ^ w else 0) % 2 ^ (w + 1)).testBit i =
      (decide (i < w + 1) && (x.natAbs.testBit i || (decide (i = w) && decide (x < 0)))) := by
  have hsign : (if x < 0 then 2 ^ w else 0).testBit i = (decide (i = w) && decide (x < 0)) := by
    by_cases hx : x < 0
    · simp [hx, Nat.testBit_two_pow, eq_comm]
    · simp [hx]
  rw [Nat.testBit_mod_two_pow, Nat.testBit_or, hsign]

/-- Settles O22: the codes are the sign-magnitude form with the sign in bits 21 and 20. -/
theorem locationCodesAreSignMagnitude : Obligations.LocationCodesAreSignMagnitude :=
  ⟨fun lon i => testBit_signMagnitude lon 21 i, fun lat i => testBit_signMagnitude lat 20 i⟩

/-- Settles O23: truncating division and the absolute value commute. -/
theorem altitudeCodeTruncates : Obligations.AltitudeCodeTruncates := by
  intro alt
  constructor
  · rw [altCode, Int.natCast_mod, Int.natCast_div, Int.natCast_natAbs]
    rfl
  · rw [altCode, Int.natAbs_tdiv]
    rfl

/-! ## SETUSER -/

/-- The payload byte at index `k` below the capacity: USERBUF's, or the padding from `len` on (42_field_encoder.md R177). -/
def specUserByte (s : State) (k : Nat) : Nat := if k < s.opa.toNat then (readByte s.userBuf k).toNat else 0

/-- The half-byte tail after `cap` bytes (42_field_encoder.md R176, R180). -/
def specUserTail (s : State) (cap : Nat) : Nat :=
  if s.opa.toNat = cap + 1 then (readByte s.userBuf cap).toNat / 16 else 0

/-- SETUSER's fields by the capacity of the rules (42_field_encoder.md R176, 43_frame_assembler.md R193). -/
theorem userFields_eq {s : State} {cap : Nat} {nib : Bool} (hcap : (cap, nib) = specCapacity s.actVariant s.actBch) :
    userFields s = byteFields (specUserByte s) cap ++ if nib then [(4, specUserTail s cap)] else [] := by
  have hbytes : capBytes (activeLayout s) = cap := by rw [capBytes_eq, ← hcap]
  have hnib : hasNibble (activeLayout s) = nib := by rw [hasNibble_eq, ← hcap]
  have hpadded : ∀ k, k < cap → paddedByte s k = specUserByte s k := by
    intro k hk
    have hmin : k < min s.opa.toNat cap ↔ k < s.opa.toNat := by omega
    simp only [paddedByte, hbytes, hmin]
    rfl
  have htail : tailNibble s = specUserTail s cap := by
    rw [tailNibble, hbytes]
    rfl
  rw [userFields, hbytes, hnib, htail, ← byteFields_congr hpadded]
  rfl

theorem totalWidth_userFields (s : State) : totalWidth (userFields s) = userBits s := by
  obtain ⟨cap, nib, hcap⟩ : ∃ cap nib, (cap, nib) = specCapacity s.actVariant s.actBch := ⟨_, _, rfl⟩
  rw [userFields_eq hcap, totalWidth_append, totalWidth_byteFields, userBits, ← hcap]
  cases nib <;> rfl

theorem userBits_pos (s : State) : 0 < userBits s := by
  unfold userBits
  cases s.actVariant <;> cases s.actBch <;> decide

/-- The UserData field of every table lies inside its frame (43_frame_assembler.md R190, R191). -/
theorem tableStart_userData {s : State} {p : Nat}
    (h : (s.actVariant = .p ∧ p = 88) ∨ (s.actVariant = .e ∧ p = 92) ∨ (s.actVariant = .u ∧ p = 16)) :
    tableStart .userData s = some p ∧ p + userBits s ≤ frameBits s := by
  rw [frameBits_eq, flen_eq, userBits]
  obtain ⟨hv, rfl⟩ | ⟨hv, rfl⟩ | ⟨hv, rfl⟩ := h <;>
  · refine ⟨tableStart_eq hv .userData, ?_⟩
    rw [hv]
    cases s.actBch <;> decide

/-- Settles O24: the list's byte fields and its tail, read off in the words of the rules. -/
theorem setUserCompletes : Obligations.SetUserCompletes := by
  intro s p i cap nib hattach hcap hi
  have hform : commandBody i = bodySetUser ∧ commandStart i s = some p ∧ p + userBits s ≤ frameBits s := by
    obtain ⟨rfl, hfit⟩ | ⟨rfl, htable⟩ := hi
    · exact ⟨rfl, rfl, hfit⟩
    · exact ⟨rfl, tableStart_userData htable⟩
  obtain ⟨hbody, hstart, hfit⟩ := hform
  obtain ⟨t, ht, hholds, hwrote⟩ := exec_encoder_completes hattach hstart
    (congrFun₂ hbody p s) (totalWidth_userFields s) (userBits_pos s) hfit
  rw [userFields_eq hcap, fieldsHold_append, totalWidth_byteFields] at hholds
  obtain ⟨hbytes, htail⟩ := hholds
  refine ⟨t, ht, fun k hk => fieldHolds_of_byteFields hbytes hk, ?_, hwrote⟩
  rintro rfl
  exact htail.1

/-- Two USERBUFs that agree on the payload give the same fields (42_field_encoder.md R179). -/
theorem userFields_of_payload {s : State} {b : Memory} {cap : Nat} {nib : Bool}
    (hcap : (cap, nib) = specCapacity s.actVariant s.actBch)
    (hbytes : ∀ k, k < min s.opa.toNat cap → readByte b k = readByte s.userBuf k)
    (htail : nib = true → s.opa.toNat = cap + 1 → readByte b cap = readByte s.userBuf cap) :
    userFields { s with userBuf := b } = userFields s := by
  have hbyte : ∀ k, k < cap → specUserByte { s with userBuf := b } k = specUserByte s k := by
    intro k hk
    by_cases hlen : k < s.opa.toNat
    · simp only [specUserByte, hbytes k (lt_min hlen hk)]
    · simp only [specUserByte, if_neg hlen]
  rw [userFields_eq (s := { s with userBuf := b }) hcap, userFields_eq hcap, byteFields_congr hbyte]
  cases nib with
  | false => rfl
  | true =>
    have htailByte : specUserTail { s with userBuf := b } cap = specUserTail s cap := by
      by_cases hlen : s.opa.toNat = cap + 1
      · simp only [specUserTail, htail rfl hlen]
      · simp only [specUserTail, if_neg hlen]
    rw [htailByte]

/-- SETUSER sees the operands through its fields alone (30_encoding.md R99). -/
theorem exec_setUser_apply {i : Instr} {f : OperandChange} {s : State} (hbody : commandBody i = bodySetUser)
    (hfields : userFields (f.apply s) = userFields s) : exec i (f.apply s) = mapNext f.apply (exec i s) := by
  rw [exec_eq_runCommand, exec_eq_runCommand, commandStart_apply, hbody]
  refine runCommand_mapNext rfl rfl rfl (fun _ => rfl) fun p => ?_
  rw [bodySetUser, bodySetUser, hfields, encodeFields_apply]

/-- Both forms answer alike on two USERBUFs that give the same fields. -/
theorem exec_setUser_withUserBuf {s : State} {b : Memory} (p : Nat)
    (hfields : userFields { s with userBuf := b } = userFields s) :
    exec (.setUser p) { s with userBuf := b } = mapNext (fun t => { t with userBuf := b }) (exec (.setUser p) s) ∧
      exec .setUserT { s with userBuf := b } = mapNext (fun t => { t with userBuf := b }) (exec .setUserT s) :=
  ⟨exec_setUser_apply (f := { userBuf := fun _ => b }) rfl hfields,
    exec_setUser_apply (f := { userBuf := fun _ => b }) rfl hfields⟩

/-- Settles O25: with `len = 0` the payload is empty, so any two USERBUFs agree on it. -/
theorem setUserReadsOnlyItsPayload : Obligations.SetUserReadsOnlyItsPayload := by
  refine ⟨fun s b p cap nib hcap hbytes htail => ?_, fun s b p hopa => ?_⟩
  · exact exec_setUser_withUserBuf p (userFields_of_payload hcap hbytes htail)
  · have hlen : s.opa.toNat = 0 := by rw [hopa]; rfl
    exact exec_setUser_withUserBuf p (userFields_of_payload rfl (fun k hk => by omega) (fun _ h => by omega))

end Sys2Proof.Machine

/-! # The family of 43_frame_assembler.md: CLEAN, the checksum setters and STATE

The invariant splits into what a body can break, the frame (`FrameSound`), and what the prologue, the engine and the host
set. A setter at its canonical position is an operation on the frame alone (`putCrc16`, `putBch32`): the field it writes lies
outside its own domain, so the checksum it stored is that of the frame it leaves, and storing it again changes nothing. -/

namespace Sys2Proof.Machine

/-! ## A sound frame -/

/-- The part of `Inv` about FRAME: canonical cells, and none of them in an Empty frame (43_frame_assembler.md R197). -/
structure FrameSound (s : State) : Prop where
  wf : s.frame.wf = true
  empty : s.asmState = .empty → s.frame = []

theorem FrameSound.frameWritten {s : State} (h : s.frame.wf = true) : FrameSound (frameWritten s) :=
  ⟨h, fun hempty => absurd hempty (populate_ne_empty _)⟩

theorem FrameSound.sealFrame {s : State} (h : s.frame.wf = true) : FrameSound (sealFrame s) :=
  ⟨h, fun hempty => AsmState.noConfusion hempty⟩

theorem FrameSound.setResult {s : State} (v : Word) (h : FrameSound s) : FrameSound (setResult v s) := ⟨h.wf, h.empty⟩

theorem FrameSound.flagsOk {s : State} (h : FrameSound s) : FrameSound (flagsOk s) := ⟨h.wf, h.empty⟩

/-- What ends inside the frame ends inside the 32 bytes of FRAME (10_state.md R33, R35). -/
theorem le_bufferBits {s : State} {n : Nat} (h : n ≤ frameBits s) : n ≤ 8 * Config.bufferBytes :=
  h.trans ((frameBits_le s).trans (by decide))

theorem encodeFields_frameSound {fields : List (Nat × Nat)} {p : Nat} {s u : State} (hs : FrameSound s)
    (h : encodeFields fields p s = .next u) : FrameSound u := by
  obtain ⟨hfit, rfl⟩ := encodeFields_cases h
  exact .setResult _ (.frameWritten (wf_putFields hs.wf (le_bufferBits hfit)))

theorem bodySetBit_frameSound {p : Nat} {s u : State} (hs : FrameSound s) (h : bodySetBit p s = .next u) :
    FrameSound u := by
  obtain ⟨hp, rfl⟩ := bodySetBit_cases h
  exact .frameWritten (wf_putBit _ hs.wf (le_bufferBits (n := p + 1) hp))

theorem bodySetValue_frameSound {w p : Nat} {s u : State} (hs : FrameSound s) (h : bodySetValue w p s = .next u) :
    FrameSound u := by
  obtain ⟨-, hfit, rfl⟩ | ⟨-, rfl⟩ := bodySetValue_cases h
  · exact .setResult _ (.frameWritten (wf_putField _ hs.wf (le_bufferBits hfit)))
  · exact .setResult _ hs

theorem bodyCalc_frameSound {W p : Nat} {s u : State} (hs : FrameSound s) (h : bodyCalc W p s = .next u) :
    FrameSound u := by
  obtain ⟨-, -, rfl⟩ := bodyCalc_cases h
  exact .setResult _ hs

theorem bodySetCrc16_frameSound {p : Nat} {s u : State} (hs : FrameSound s) (h : bodySetCrc16 p s = .next u) :
    FrameSound u := by
  obtain ⟨hfit, rfl⟩ := bodySetCrc16_cases h
  exact .setResult _ (.sealFrame (wf_putField _ hs.wf (le_bufferBits hfit)))

theorem bodySetCrc16Bch32_frameSound {b : Nat} {s u : State} (hs : FrameSound s)
    (h : bodySetCrc16Bch32 b s = .next u) : FrameSound u := by
  obtain ⟨hfit, m, rfl, rfl⟩ := bodySetCrc16Bch32_cases h
  have hcrc := wf_putField (frameCrc16 s (frameBits s - 32)).toNat hs.wf (le_bufferBits (crcOff_fits s))
  exact .setResult _ (.sealFrame (wf_putField _ hcrc (le_bufferBits hfit)))

theorem bodyClean_frameSound {p : Nat} {s u : State} (h : bodyClean p s = .next u) : FrameSound u := by
  obtain rfl := bodyClean_cases h
  exact ⟨wf_nil, fun _ => rfl⟩

theorem commandBody_frameSound {i : Instr} {p : Nat} {s u : State} (hs : FrameSound s)
    (h : commandBody i p s = .next u) : FrameSound u := by
  cases i with
  | clean => exact bodyClean_frameSound (p := p) h
  | setBit _ => exact bodySetBit_frameSound hs h
  | setValue _ _ | setValue32 _ => exact bodySetValue_frameSound hs h
  | setAcq _ | setAcqT | setDate _ | setDateT | setLoc _ | setLocT | setUser _ | setUserT =>
    exact encodeFields_frameSound hs h
  | calc16 _ | calc32 _ => exact bodyCalc_frameSound hs h
  | setCrc16 _ | setCrc16T => exact bodySetCrc16_frameSound hs h
  | setCrc16Bch32 _ | setCrc16Bch32T => exact bodySetCrc16Bch32_frameSound hs h

/-! ## Every step keeps the invariant -/

/-- No outcome sets both bits (60_exceptions.md R221, R222, R224, R230), and each keeps a sound frame sound. -/
theorem exec_sound {i : Instr} {s t : State} (hs : FrameSound s) (h : exec i s = .next t) :
    FrameSound t ∧ ¬ (t.cmdErr = true ∧ t.invalid = true) := by
  rw [exec_eq_runCommand] at h
  obtain ⟨-, rfl⟩ | ⟨_, -, -, rfl⟩ | ⟨p, u, -, -, hbody, rfl⟩ := runCommand_cases h
  · exact ⟨⟨hs.wf, hs.empty⟩, by simp⟩
  · exact ⟨⟨hs.wf, hs.empty⟩, by simp⟩
  · exact ⟨(commandBody_frameSound hs hbody).flagsOk, by simp⟩

theorem completeCommand_sound {c : Word} {s u : State} (hs : FrameSound s) (h : completeCommand c s = .next u) :
    FrameSound u ∧ ¬ (u.cmdErr = true ∧ u.invalid = true) := by
  obtain ⟨-, herr⟩ | ⟨i, -, hexec⟩ := completeCommand_cases c s
  · rw [herr, Host.Outcome.next.injEq] at h
    subst h
    exact ⟨⟨hs.wf, hs.empty⟩, by simp⟩
  · exact exec_sound hs (hexec.symm.trans h)

/-- A completion leaves USERBUF alone, and its engine step clears PEND and the latency (70_reset_and_hazards.md R255). -/
theorem inv_retire {c : Word} {s u : State} (hs : Inv s) (h : completeCommand c s = .next u) : Inv (retire u) := by
  obtain ⟨hframe, huserBuf, -, hempty, -⟩ := hs
  obtain ⟨⟨hwf, hclear⟩, hflags⟩ := completeCommand_sound ⟨hframe, hempty⟩ h
  have hkept : u.userBuf = s.userBuf := by rw [completeCommand_others h]
  exact ⟨hwf, by rwa [retire_userBuf, hkept], hflags, hclear, fun _ => rfl⟩

/-- A host access takes nothing off a latency that is 0. -/
theorem inv_tick {s : State} (hs : Inv s) : Inv (tick s) := by
  obtain ⟨hframe, huserBuf, hflags, hempty, hlatency⟩ := hs
  refine ⟨hframe, huserBuf, hflags, hempty, fun hpend => ?_⟩
  have hidle : busy s = false := busy_of_pend_eq_none hpend
  rw [tick_of_not_busy hidle]
  exact hlatency hpend

/-- The word written lies inside the buffer (20_memory.md R61). -/
theorem wf_windowWrite {m : Memory} {k : Nat} (v : Word) (h : m.wf = true) (hk : k < 8) :
    (windowWrite m k v).wf = true :=
  wf_memWrite _ h (show 4 * k + 4 ≤ 32 by omega)

/-- A window write is canonical, a FRAME window write is a frame write, and a CMD write makes a command pending. -/
theorem inv_writeReg {s : State} (hs : Inv s) (offset : Nat) (v : Word) : Inv (writeReg (hostReg offset) v s) := by
  obtain ⟨hframe, huserBuf, hflags, hempty, hlatency⟩ := hs
  cases hreg : hostReg offset with
  | cmd => exact ⟨hframe, huserBuf, hflags, hempty, fun hpend => absurd hpend (Option.some_ne_none v)⟩
  | opa | opb | opc | poly | cfg | status | result | flenr | reserved =>
    exact ⟨hframe, huserBuf, hflags, hempty, hlatency⟩
  | frame k =>
    have hwritten : FrameSound (writeReg (.frame k) v s) :=
      .frameWritten (wf_windowWrite v hframe (hostReg_frame_lt hreg))
    exact ⟨hwritten.wf, huserBuf, hflags, hwritten.empty, hlatency⟩
  | userBuf k => exact ⟨hframe, wf_windowWrite v huserBuf (hostReg_userBuf_lt hreg), hflags, hempty, hlatency⟩

theorem HostMove.inv {s t : State} (h : HostMove s t) (hs : Inv s) : Inv t := by
  have hinput : ∀ events values, Inv { s with input := events, reads := values } := fun _ _ => hs
  cases h with
  | idle => exact hs
  | read => exact inv_tick (hinput _ _)
  | write => exact inv_writeReg (hinput _ _) _ _
  | poll => exact inv_tick hs
  | waited => exact hs
  | reset => exact ⟨wf_nil, wf_nil, fun ⟨hcmdErr, _⟩ => Bool.false_ne_true hcmdErr, fun _ => rfl, fun _ => rfl⟩

/-- Settles O55: a step is a completion, whose outcome is sound, or a move of the host. -/
theorem invariantIsKept : Obligations.InvariantIsKept := by
  intro s t hs h
  obtain ⟨c, u, -, -, hcomplete, rfl⟩ | ⟨-, hmove⟩ := step_next h
  · exact inv_retire hs hcomplete
  · exact hmove.inv hs

/-! ## The assembler state -/

/-- A `.T` form has no start position exactly where the active table lacks its field (60_exceptions.md R223, cause 9). -/
theorem commandStart_eq_none (i : Instr) (s : State) : commandStart i s = none ↔ lacksField i s = true := by
  cases i with
  | setAcqT | setDateT | setLocT | setUserT | setCrc16T | setCrc16Bch32T =>
    simp only [commandStart, tableStart, activeLayout, lacksField]
    cases s.actVariant <;> cases s.actBch <;> decide
  | _ => exact iff_of_false (Option.some_ne_none _) Bool.false_ne_true

theorem encodeFields_asmState {fields : List (Nat × Nat)} {p : Nat} {s u : State}
    (h : encodeFields fields p s = .next u) : u.asmState = stateAfterWrite s := by
  obtain ⟨-, rfl⟩ := encodeFields_cases h
  exact (stateAfterWrite_eq s).symm

theorem bodySetBit_asmState {p : Nat} {s u : State} (h : bodySetBit p s = .next u) : u.asmState = stateAfterWrite s := by
  obtain ⟨-, rfl⟩ := bodySetBit_cases h
  exact (stateAfterWrite_eq s).symm

theorem bodySetValue_asmState {w p : Nat} {s u : State} (h : bodySetValue w p s = .next u) :
    u.asmState = if 0 < w then stateAfterWrite s else s.asmState := by
  obtain ⟨hw, -, rfl⟩ | ⟨rfl, rfl⟩ := bodySetValue_cases h
  · rw [if_pos hw, stateAfterWrite_eq]
    rfl
  · rfl

theorem bodyCalc_asmState {W p : Nat} {s u : State} (h : bodyCalc W p s = .next u) : u.asmState = s.asmState := by
  obtain ⟨-, -, rfl⟩ := bodyCalc_cases h
  rfl

theorem bodySetCrc16_asmState {p : Nat} {s u : State} (h : bodySetCrc16 p s = .next u) : u.asmState = .sealed := by
  obtain ⟨-, rfl⟩ := bodySetCrc16_cases h
  rfl

theorem bodySetCrc16Bch32_asmState {b : Nat} {s u : State} (h : bodySetCrc16Bch32 b s = .next u) :
    u.asmState = .sealed := by
  obtain ⟨-, _, -, rfl⟩ := bodySetCrc16Bch32_cases h
  rfl

/-- STATE after a body that completed (43_frame_assembler.md R198 to R200). -/
theorem commandBody_asmState {i : Instr} {p : Nat} {s u : State} (h : commandBody i p s = .next u) :
    u.asmState =
      if i = .clean then .empty
      else if isSetter i = true then .sealed
      else if writesFrame i = true then stateAfterWrite s
      else s.asmState := by
  cases i with
  | clean =>
    obtain rfl := bodyClean_cases (p := p) h
    rfl
  | setBit _ => exact bodySetBit_asmState h
  | setValue _ w => simpa [isSetter, writesFrame] using bodySetValue_asmState h
  | setValue32 _ => exact bodySetValue_asmState h
  | setAcq _ | setAcqT | setDate _ | setDateT | setLoc _ | setLocT | setUser _ | setUserT =>
    exact encodeFields_asmState h
  | calc16 _ | calc32 _ => exact bodyCalc_asmState h
  | setCrc16 _ | setCrc16T => exact bodySetCrc16_asmState h
  | setCrc16Bch32 _ | setCrc16Bch32T => exact bodySetCrc16Bch32_asmState h

/-- Settles O39: the two error outcomes keep STATE, and past them the body alone decides it. -/
theorem assemblerStateMachine : Obligations.AssemblerStateMachine := by
  intro i s t h
  rw [exec_eq_runCommand] at h
  obtain ⟨hnone, rfl⟩ | ⟨_, -, hdetached, rfl⟩ | ⟨p, u, hstart, hattach, hbody, rfl⟩ := runCommand_cases h
  · rw [if_pos (.inr ((commandStart_eq_none i s).mp hnone)), outcomeCmdErr_asmState]
  · rw [if_pos (.inl hdetached), outcomeInvalid_asmState]
  · have hpast : ¬ (s.attach = false ∨ lacksField i s = true) := by
      rw [← commandStart_eq_none, hstart, hattach]
      simp
    rw [if_neg hpast, flagsOk_asmState, commandBody_asmState hbody]

/-! ## CLEAN -/

/-- Settles O26: the empty list of cells reads 0 everywhere, and FLEN follows the configuration latched. -/
theorem cleanConstructsAnEmptyFrame : Obligations.CleanConstructsAnEmptyFrame := by
  intro s hattach
  have hexec : exec .clean s = finish (bodyClean 0 s) := runCommand_attached _ _ _ hattach
  exact ⟨_, hexec, readByte_nil, flen_eq _, rfl⟩

/-! ## The tables -/

/-- Settles O31: the offsets of each table are the running sums of its widths. -/
theorem tablesTileTheFrame : Obligations.TablesTileTheFrame := by
  intro v b
  cases v <;> cases b <;> simp [layout, layoutP, layoutE, layoutU, entries, Contiguous]

/-- Settles O32: each entry of the rules' tables is computed. -/
theorem frameLengthsAndCapacities : Obligations.FrameLengthsAndCapacities := by
  refine ⟨fun v b => ?_, fun v b => ?_⟩ <;> cases v <;> cases b <;> decide

/-- A CRC16 domain by CrcOff (43_frame_assembler.md R194, R204). -/
theorem crcDomainLength_eq (s : State) (dataEnd : Nat) :
    crcDomainLength s dataEnd = dataEnd - (specCrcOff s.actVariant + 16) := by
  rw [crcDomainLength, crcOff_eq]

/-- Settles O33: the domains start at CrcOff + 16, or at 0, and end at or before the frame's last bit. -/
theorem checksumDomains : Obligations.ChecksumDomains := by
  refine ⟨fun s => ?_, fun s => ?_⟩
  · rw [crcDomainLength_eq, crcDomainLength_eq, flen_eq]
    cases s.actVariant <;> cases s.actBch <;> rfl
  · rw [crcDomainLength_eq, crcDomainLength_eq, ceil8, ceil8, ceil8]
    obtain h | h := flen_cases s <;> omega

/-! ## A setter completes -/

/-- The state a setter leaves: its frame and its checksum in RESULT, sealed (43_frame_assembler.md R199, R203, R206). -/
def sealedWith (m : Memory) (result : Word) (s : State) : State :=
  { s with frame := m, asmState := .sealed, result := result, cmdErr := false, invalid := false }

@[simp] theorem sealedWith_frame (m : Memory) (r : Word) (s : State) : (sealedWith m r s).frame = m := rfl
@[simp] theorem sealedWith_actVariant (m : Memory) (r : Word) (s : State) :
    (sealedWith m r s).actVariant = s.actVariant := rfl
@[simp] theorem flen_sealedWith (m : Memory) (r : Word) (s : State) : flen (sealedWith m r s) = flen s := rfl
@[simp] theorem sealedWith_sealedWith (m m' : Memory) (r r' : Word) (s : State) :
    sealedWith m' r' (sealedWith m r s) = sealedWith m' r' s := rfl

/-- The CRC16 of the bits from `off + 16` up to `dataEnd`, `off` being CrcOff (43_frame_assembler.md R204). -/
def dataCrc16 (m : Memory) (off dataEnd : Nat) : BitVec 16 := crc16 m 2 (dataEnd - (off + 16))

theorem frameCrc16_eq (s : State) (dataEnd : Nat) :
    frameCrc16 s dataEnd = dataCrc16 s.frame (specCrcOff s.actVariant) dataEnd := by
  rw [frameCrc16, crcDomainLength_eq, dataCrc16]

/-- The frame with the CRC16 of its data up to `dataEnd` in the CRC16 field at `off` (43_frame_assembler.md R203, R206). -/
def putCrc16 (m : Memory) (off dataEnd : Nat) : Memory := putField m off 16 (dataCrc16 m off dataEnd).toNat

/-- The frame with the BCH32 of all bits before `b` in the field at `b` (43_frame_assembler.md R206). -/
def putBch32 (m : Memory) (b : Nat) : Memory := putField m b 32 (bch32 m 0 b).toNat

/-- What SETCRC16 does inside the frame (43_frame_assembler.md R203). -/
theorem bodySetCrc16_fits {p : Nat} {s : State} {crc : BitVec 16} (hfit : p + 16 ≤ 8 * flen s)
    (hcrc : crc = dataCrc16 s.frame (specCrcOff s.actVariant) (8 * flen s)) :
    bodySetCrc16 p s = .next (setResult (crc.setWidth 32) (sealFrame (setFrame (putField s.frame p 16 crc.toNat) s))) := by
  rw [← frameCrc16_eq, ← frameBits_eq] at hcrc
  rw [← frameBits_eq] at hfit
  rw [bodySetCrc16, if_neg (Nat.not_lt.mpr hfit), hcrc]

/-- What SETCRC16BCH32 does inside the frame, `m` being the frame between its two writes (43_frame_assembler.md R206). -/
theorem bodySetCrc16Bch32_fits {b : Nat} {s : State} {m : Memory} (hfit : b + 32 ≤ 8 * flen s)
    (hm : m = putCrc16 s.frame (specCrcOff s.actVariant) (8 * flen s - 32)) :
    bodySetCrc16Bch32 b s = .next (setResult (bch32 m 0 (8 * flen s - 32))
      (sealFrame (setFrame (putField m b 32 (bch32 m 0 (8 * flen s - 32)).toNat) s))) := by
  rw [putCrc16, ← frameCrc16_eq, ← crcOff_eq, ← frameBits_eq] at hm
  rw [← frameBits_eq] at hfit ⊢
  rw [bodySetCrc16Bch32, if_neg (Nat.not_lt.mpr hfit), hm]

theorem flagsOk_sealFrame (m : Memory) (r : Word) (s : State) :
    flagsOk (setResult r (sealFrame (setFrame m s))) = sealedWith m r s := rfl

section

variable {i : Instr} {s : State} {p : Nat} (hattach : s.attach = true) (hstart : commandStart i s = some p)
include hattach hstart

theorem exec_setCrc16_completes (hbody : commandBody i = bodySetCrc16) (hfit : p + 16 ≤ 8 * flen s) {crc : BitVec 16}
    (hcrc : crc = dataCrc16 s.frame (specCrcOff s.actVariant) (8 * flen s)) :
    exec i s = .next (sealedWith (putField s.frame p 16 crc.toNat) (crc.setWidth 32) s) := by
  rw [exec_eq_runCommand, hstart, runCommand_attached _ _ _ hattach, hbody, bodySetCrc16_fits hfit hcrc, finish,
    flagsOk_sealFrame]

theorem exec_setCrc16Bch32_completes (hbody : commandBody i = bodySetCrc16Bch32) (hfit : p + 32 ≤ 8 * flen s)
    {m : Memory} (hm : m = putCrc16 s.frame (specCrcOff s.actVariant) (8 * flen s - 32)) :
    exec i s = .next (sealedWith (putField m p 32 (bch32 m 0 (8 * flen s - 32)).toNat) (bch32 m 0 (8 * flen s - 32)) s) := by
  rw [exec_eq_runCommand, hstart, runCommand_attached _ _ _ hattach, hbody, bodySetCrc16Bch32_fits hfit hm, finish,
    flagsOk_sealFrame]

end

/-- The `.T` form of SETCRC16 starts at CrcOff (43_frame_assembler.md R194, R203). -/
theorem tableStart_crc16 (s : State) : tableStart .crc16 s = some (specCrcOff s.actVariant) :=
  congrArg some (crcOff_eq s)

/-- With the BCH32 field present, its `.T` form starts at bit 216 of the 31 bytes (43_frame_assembler.md R190, R191). -/
theorem tableStart_bch32 {s : State} (h : s.actBch = true) : tableStart .bch32 s = some 216 ∧ flen s = 31 := by
  rw [flen_eq, if_pos (.inr h), tableStart, activeLayout, h]
  cases s.actVariant <;> exact ⟨rfl, rfl⟩

theorem specCrcOff_lt (v : Variant) : specCrcOff v < 8 := by cases v <;> decide

/-- The CRC16 field stands before any BCH32 field of a frame. -/
theorem specCrcOff_fits (s : State) : specCrcOff s.actVariant + 16 + 32 ≤ 8 * flen s := by
  have hoff := specCrcOff_lt s.actVariant
  obtain h | h := flen_cases s <;> omega

/-- Settles O27: both forms write the same 16 bits, from POS or from CrcOff. -/
theorem setCrc16Completes : Obligations.SetCrc16Completes := by
  intro s p i crc hattach hcrc hi
  have hexec : exec i s = .next (sealedWith (putField s.frame p 16 crc.toNat) (crc.setWidth 32) s) := by
    obtain ⟨rfl, hfit⟩ | ⟨rfl, rfl⟩ := hi
    · exact exec_setCrc16_completes hattach rfl rfl hfit hcrc
    · exact exec_setCrc16_completes (i := .setCrc16T) hattach (tableStart_crc16 s) rfl
        (by have := specCrcOff_fits s; omega) hcrc
  exact ⟨_, hexec, fieldHolds_putField s.frame p 16 _, keptOutside_putField s.frame p 16 _, rfl⟩

/-- Settles O28: the frame between the two writes is the one with the CRC16 in its field. -/
theorem setCrc16Bch32Completes : Obligations.SetCrc16Bch32Completes := by
  rintro s b i _ hattach rfl hi
  obtain ⟨m, hm⟩ : ∃ m, m = putCrc16 s.frame (specCrcOff s.actVariant) (8 * flen s - 32) := ⟨_, rfl⟩
  have hexec : exec i s =
      .next (sealedWith (putField m b 32 (bch32 m 0 (8 * flen s - 32)).toNat) (bch32 m 0 (8 * flen s - 32)) s) := by
    obtain ⟨rfl, hfit⟩ | ⟨rfl, hbch, rfl⟩ := hi
    · exact exec_setCrc16Bch32_completes hattach rfl rfl hfit hm
    · obtain ⟨hstart, hflen⟩ := tableStart_bch32 hbch
      exact exec_setCrc16Bch32_completes (i := .setCrc16Bch32T) hattach hstart rfl (by omega) hm
  subst hm
  exact ⟨_, _, _, hexec, fieldHolds_putField s.frame _ 16 _, keptOutside_putField s.frame _ 16 _, rfl,
    fieldHolds_putField _ b 32 _, keptOutside_putField _ b 32 _, rfl⟩

/-! ## A field lies outside its own domain -/

/-- The CRC16 domain of a frame of whole bytes is its bits from `off + 16` on (43_frame_assembler.md R204). -/
theorem dataCrc16_congr {m m' : Memory} {off n : Nat} (hoff : off < 8)
    (h : ∀ q, off + 16 ≤ q → q < 8 * n → getBit m' q = getBit m q) :
    dataCrc16 m' off (8 * n) = dataCrc16 m off (8 * n) :=
  chk_of_messageBit (f := messageBit m 2 (8 * n - (off + 16))) polyCrc16 fun _ hk => h _ (by omega) (by omega)

/-- The BCH32 domain of whole bytes is the bits before its end (43_frame_assembler.md R206). -/
theorem bch32_congr {m m' : Memory} {n : Nat} (h : ∀ q, q < 8 * n → getBit m' q = getBit m q) :
    bch32 m' 0 (8 * n) = bch32 m 0 (8 * n) :=
  chk_of_messageBit (f := messageBit m 0 (8 * n)) polyBch32 fun _ hk => h _ (by omega)

/-- A field that holds its value already is written without any change to a canonical frame. -/
theorem putField_eq_self {m : Memory} {p w v : Nat} (hwf : m.wf = true) (hfit : p + w ≤ 8 * Config.bufferBytes)
    (h : FieldHolds m p w v) : putField m p w v = m := by
  refine eq_of_readByte (wf_putField v hwf hfit) hwf fun a => readByte_eq_of_getBit a fun j _ => ?_
  rw [getBit_putField]
  split_ifs with hq
  · rw [← h _ (by omega : 8 * a + j - p < w), Nat.add_sub_cancel' hq.1]
  · rfl

section

variable {m : Memory} {off n : Nat}

theorem dataCrc16_putCrc16 (hoff : off < 8) : dataCrc16 (putCrc16 m off (8 * n)) off (8 * n) = dataCrc16 m off (8 * n) :=
  dataCrc16_congr hoff fun _ hq _ => by rw [putCrc16, getBit_putField, if_neg (by omega)]

theorem dataCrc16_putBch32 (hoff : off < 8) : dataCrc16 (putBch32 m (8 * n)) off (8 * n) = dataCrc16 m off (8 * n) :=
  dataCrc16_congr hoff fun _ _ hq => by rw [putBch32, getBit_putField, if_neg (by omega)]

theorem bch32_putBch32 : bch32 (putBch32 m (8 * n)) 0 (8 * n) = bch32 m 0 (8 * n) :=
  bch32_congr fun _ hq => by rw [putBch32, getBit_putField, if_neg (by omega)]

/-- The CRC16 field holds the CRC16 of the frame it stands in. -/
theorem holdsCrc16_putCrc16 (hoff : off < 8) : FieldHolds (putCrc16 m off (8 * n)) off 16
    (dataCrc16 (putCrc16 m off (8 * n)) off (8 * n)).toNat := by
  rw [dataCrc16_putCrc16 hoff]
  exact fieldHolds_putField m off 16 _

/-- It still does after the BCH32 is written behind its domain (43_frame_assembler.md R207). -/
theorem holdsCrc16_putBch32 (hoff : off < 8) (hn : off + 16 ≤ 8 * n)
    (h : FieldHolds m off 16 (dataCrc16 m off (8 * n)).toNat) :
    FieldHolds (putBch32 m (8 * n)) off 16 (dataCrc16 (putBch32 m (8 * n)) off (8 * n)).toNat := by
  intro k hk
  rw [dataCrc16_putBch32 hoff, putBch32, getBit_putField, if_neg (by omega), h k hk]

/-- The BCH32 field holds the BCH32 of the frame it stands in. -/
theorem holdsBch32_putBch32 :
    FieldHolds (putBch32 m (8 * n)) (8 * n) 32 (bch32 (putBch32 m (8 * n)) 0 (8 * n)).toNat := by
  rw [bch32_putBch32]
  exact fieldHolds_putField m (8 * n) 32 _

end

/-! ## A message with its remainder -/

/-- A step on the message bit that equals the bit shifted out adds no generator. -/
theorem chkStep_top {W : Nat} (P r : BitVec W) : chkStep P r (r.getLsbD (W - 1)) = r <<< 1 := by
  rw [chkStep, Bool.xor_self, if_neg Bool.false_ne_true]

theorem foldl_chkStep_top {W n : Nat} (P r : BitVec W) (hn : n ≤ W) :
    ((List.range n).map fun k => r.getLsbD (W - 1 - k)).foldl (chkStep P) r = r <<< n := by
  induction n with
  | zero => simp
  | succ n ih =>
    have htop : (r <<< n).getLsbD (W - 1) = r.getLsbD (W - 1 - n) := by
      simp only [BitVec.getLsbD_shiftLeft, show W - 1 < W by omega, show ¬ W - 1 < n by omega, decide_true, decide_false,
        Bool.not_false, Bool.true_and]
    rw [List.range_succ, List.map_append, List.foldl_append, ih (by omega), List.map_singleton, List.foldl_cons,
      List.foldl_nil, ← htop, chkStep_top, BitVec.shiftLeft_add]

/-- A message followed by its own remainder, first bit most significant, has remainder 0 (41_checksum_engine.md R144). -/
theorem chkBits_append_remainder {W : Nat} (P : BitVec W) (bits : List Bool) :
    chkBits P (bits ++ (List.range W).map fun k => (chkBits P bits).getLsbD (W - 1 - k)) = 0#W := by
  rw [chkBits, List.foldl_append]
  exact (foldl_chkStep_top P (chkBits P bits) le_rfl).trans (BitVec.shiftLeft_eq_zero le_rfl)

/-- A frame that ends in the BCH32 of its other bits has BCH32 0 (43_frame_assembler.md R211). -/
theorem bch32_frame_eq_zero {m : Memory} {n : Nat} (h : FieldHolds m (8 * n) 32 (bch32 m 0 (8 * n)).toNat) :
    bch32 m 0 (8 * n + 32) = 0#32 := by
  have hfront : bch32 m 0 (8 * n) = chkBits polyBch32 ((List.range (8 * n)).map (getBit m)) :=
    chk_of_messageBit _ fun k _ => by rw [messageBit_wholeBytes, Nat.zero_add]
  have hwhole : bch32 m 0 (8 * n + 32) = chkBits polyBch32 ((List.range (8 * n + 32)).map (getBit m)) :=
    chk_of_messageBit _ fun k _ => by
      rw [show 8 * n + 32 = 8 * (n + 4) by omega, messageBit_wholeBytes, Nat.zero_add]
  have hfield : (List.range 32).map (fun k => getBit m (8 * n + k)) =
      (List.range 32).map fun k => (bch32 m 0 (8 * n)).getLsbD (32 - 1 - k) :=
    List.map_congr_left fun k hk => h k (List.mem_range.mp hk)
  rw [hwhole, List.range_add, List.map_append, List.map_map]
  change chkBits polyBch32 (_ ++ (List.range 32).map fun k => getBit m (8 * n + k)) = _
  rw [hfield, hfront]
  exact chkBits_append_remainder _ _

/-! ## The setters at their canonical positions -/

theorem exec_setCrc16_canonical {s : State} {i : Instr} {off : Nat} (hattach : s.attach = true)
    (hoff : off = specCrcOff s.actVariant) (hi : i = .setCrc16T ∨ i = .setCrc16 off) :
    exec i s = .next (sealedWith (putCrc16 s.frame off (8 * flen s))
      ((dataCrc16 s.frame off (8 * flen s)).setWidth 32) s) := by
  have hfit := specCrcOff_fits s
  subst hoff
  obtain rfl | rfl := hi
  · exact exec_setCrc16_completes (i := .setCrc16T) hattach (tableStart_crc16 s) rfl (by omega) rfl
  · exact exec_setCrc16_completes hattach rfl rfl (by omega) rfl

theorem exec_setCrc16Bch32_canonical {s : State} {i : Instr} {b : Nat} {m : Memory} (hattach : s.attach = true)
    (hb : b + 32 = 8 * flen s) (hi : (i = .setCrc16Bch32T ∧ s.actBch = true) ∨ i = .setCrc16Bch32 b)
    (hm : m = putCrc16 s.frame (specCrcOff s.actVariant) b) :
    exec i s = .next (sealedWith (putBch32 m b) (bch32 m 0 b) s) := by
  obtain rfl : b = 8 * flen s - 32 := by omega
  obtain ⟨rfl, hbch⟩ | rfl := hi
  · obtain ⟨hstart, hflen⟩ := tableStart_bch32 hbch
    rw [show 216 = 8 * flen s - 32 by omega] at hstart
    exact exec_setCrc16Bch32_completes (i := .setCrc16Bch32T) hattach hstart rfl (by omega) hm
  · exact exec_setCrc16Bch32_completes hattach rfl rfl (by omega) hm

/-- A field that holds a checksum reads back as it (40_bit_packer.md R129). -/
theorem fieldValue_of_holds_toNat {W : Nat} {m : Memory} {p : Nat} {c : BitVec W} (h : FieldHolds m p W c.toNat) :
    fieldValue m p W = c.toNat := by
  rw [fieldValue_of_fieldHolds h, Nat.mod_eq_of_lt c.isLt]

/-- A BCH32 field at the end of a frame starts at a byte. -/
theorem exists_wholeBytes {s : State} {b : Nat} (hb : b + 32 = 8 * flen s) : ∃ n, b = 8 * n :=
  ⟨flen s - 4, by omega⟩

/-- Settles O29: each setter leaves its fields holding the checksums of the frame they stand in. -/
theorem sealedFrameChecks : Obligations.SealedFrameChecks := by
  refine ⟨fun s i hattach hi => ?_, fun s i b hattach hb hi => ?_⟩
  · exact ⟨_, exec_setCrc16_canonical hattach rfl hi,
      fieldValue_of_holds_toNat (holdsCrc16_putCrc16 (specCrcOff_lt s.actVariant))⟩
  · have hoff := specCrcOff_lt s.actVariant
    have hfit := specCrcOff_fits s
    refine ⟨_, exec_setCrc16Bch32_canonical hattach hb hi rfl, ?_⟩
    rw [← hb]
    obtain ⟨n, rfl⟩ := exists_wholeBytes hb
    exact ⟨fieldValue_of_holds_toNat (holdsCrc16_putBch32 hoff (by omega) (holdsCrc16_putCrc16 hoff)),
      fieldValue_of_holds_toNat holdsBch32_putBch32, bch32_frame_eq_zero holdsBch32_putBch32⟩

/-! ## Sealing a sealed frame -/

section

variable {m : Memory} {off n : Nat} (hwf : m.wf = true) (hoff : off < 8)
include hwf hoff

theorem wf_putCrc16 (dataEnd : Nat) : (putCrc16 m off dataEnd).wf = true :=
  wf_putField _ hwf (show off + 16 ≤ 256 by omega)

theorem putCrc16_putCrc16 : putCrc16 (putCrc16 m off (8 * n)) off (8 * n) = putCrc16 m off (8 * n) :=
  putField_eq_self (wf_putCrc16 hwf hoff _) (show off + 16 ≤ 256 by omega) (holdsCrc16_putCrc16 hoff)

variable (hn : off + 16 ≤ 8 * n) (hend : 8 * n + 32 ≤ 8 * Config.bufferBytes)
include hn hend

/-- Both writes of SETCRC16BCH32 again: neither changes the frame the first two left. -/
theorem reseal_putBch32 {sealed : Memory} (hsealed : sealed = putBch32 (putCrc16 m off (8 * n)) (8 * n)) :
    putCrc16 sealed off (8 * n) = sealed ∧ putBch32 sealed (8 * n) = sealed := by
  have hwf' : sealed.wf = true := hsealed ▸ wf_putField _ (wf_putCrc16 hwf hoff _) hend
  refine ⟨putField_eq_self hwf' (show off + 16 ≤ 256 by omega) ?_, putField_eq_self hwf' hend ?_⟩ <;> rw [hsealed]
  · exact holdsCrc16_putBch32 hoff hn (holdsCrc16_putCrc16 hoff)
  · exact holdsBch32_putBch32

end

/-- Settles O30: the fields hold the checksums of the frame already, so writing them again changes nothing. -/
theorem resealIsIdempotent : Obligations.ResealIsIdempotent := by
  refine ⟨fun s i j hattach hwf hi hj => ?_, fun s i j b hattach hwf hb hi hj => ?_⟩ <;>
    have hoff := specCrcOff_lt s.actVariant
  · refine ⟨_, exec_setCrc16_canonical hattach rfl hi, ?_⟩
    rw [exec_setCrc16_canonical (s := sealedWith _ _ s) hattach rfl hj, sealedWith_sealedWith, sealedWith_frame,
      flen_sealedWith, sealedWith_actVariant, putCrc16_putCrc16 hwf hoff, dataCrc16_putCrc16 hoff]
  · have hfit := specCrcOff_fits s
    have hend : b + 32 ≤ 8 * Config.bufferBytes := le_bufferBits hb.le
    refine ⟨_, exec_setCrc16Bch32_canonical hattach hb hi rfl, ?_⟩
    rw [exec_setCrc16Bch32_canonical (s := sealedWith _ _ s) hattach hb hj rfl, sealedWith_sealedWith, sealedWith_frame,
      sealedWith_actVariant]
    obtain ⟨n, rfl⟩ := exists_wholeBytes hb
    obtain ⟨hcrc, hbch⟩ := reseal_putBch32 hwf hoff (by omega) hend rfl
    rw [hcrc, hbch, bch32_putBch32]

end Sys2Proof.Machine

/-! # The family of 60_exceptions.md: the outcomes of a command

Every form is one `runCommand`, so its outcome is decided by three things: whether it has a start position, whether a frame
is attached, and whether its body faults. When a body faults is said once per body (`FaultsExactlyWhen`). Which words are
command errors is read off the decoder's field rules, operation by operation. -/

namespace Sys2Proof.Machine

/-! ## The outcomes that take the place of exceptions -/

/-- A form whose field the active table lacks is a command error, whatever ATTACH is (60_exceptions.md R222, R223). -/
theorem exec_of_lacksField {i : Instr} {s : State} (h : lacksField i s = true) :
    exec i s = .next (outcomeCmdErr s) := by
  rw [exec_eq_runCommand, (commandStart_eq_none i s).mpr h, runCommand_absent]

/-- A form whose field is present has a start position (30_encoding.md R98). -/
theorem lacksField_eq_false_iff {i : Instr} {s : State} : lacksField i s = false ↔ ∃ p, commandStart i s = some p := by
  rw [← Option.ne_none_iff_exists', Ne, commandStart_eq_none, Bool.not_eq_true]

/-- A form whose field is present answers the invalid-handle outcome with ATTACH = 0 (60_exceptions.md R224). -/
theorem exec_of_detached {i : Instr} {s : State} (hattach : s.attach = false) (h : lacksField i s = false) :
    exec i s = .next (outcomeInvalid (positionReturning i) s) := by
  obtain ⟨p, hp⟩ := lacksField_eq_false_iff.mp h
  rw [exec_eq_runCommand, hp, runCommand_detached _ _ _ hattach]

/-- Settles O35: past decoding, a form without a frame attached is its invalid-handle outcome. -/
theorem invalidHandleOutcome : Obligations.InvalidHandleOutcome :=
  fun _ _ hattach h => exec_of_detached hattach h

theorem completeCommand_of_rejected {c : Word} {why : Reject} {s : State} (h : decode c = .rejected why) :
    completeCommand c s = .next (outcomeCmdErr s) := by
  simp only [completeCommand, h]

theorem completeCommand_of_command {c : Word} {i : Instr} {s : State} (h : decode c = .command i) :
    completeCommand c s = exec i s := by
  simp only [completeCommand, h]

/-- Settles O36: the decoder decides the one half, the form's missing start position the other. -/
theorem commandErrorOutcome : Obligations.CommandErrorOutcome :=
  ⟨fun _ _ _ h => completeCommand_of_rejected h, fun _ _ h => exec_of_lacksField h⟩

/-! ## What no command writes -/

/-- Settles O37: CLEAN latches the active configuration, and every other form stays inside the frame. -/
theorem commandsWriteNoHostRegister : Obligations.CommandsWriteNoHostRegister := by
  intro i s t h
  by_cases hclean : i = .clean
  · subst hclean
    obtain rfl | ⟨-, rfl⟩ := execClean_next h <;> rfl
  · rw [(exec_staysInside hclean h).others]

/-! ## The step of a pending command -/

/-- A step that is due is the engine's (70_reset_and_hazards.md R255). -/
theorem step_of_engineReady {s : State} {c : Word} (hpend : s.pend = some c) (hready : engineReady s = true) :
    step s = engineStep c s := by
  simp only [step, hpend, hready, if_true]

/-- Settles O7: the engine's step completes the word, which is the form's exec, and retires it. -/
theorem stepRunsThePendingCommand : Obligations.StepRunsThePendingCommand := by
  intro s c i hpend hdue hdecode
  rw [step_of_engineReady hpend ((engineReady_iff s).mpr hdue), engineStep, completeCommand_of_command hdecode]
  cases exec i s <;> rfl

/-! ## When a command is UNDEFINED -/

/-- The answer is a fault exactly when `P` holds, and else a next state; it is never refused. -/
def FaultsExactlyWhen (a : Answer) (P : Prop) : Prop :=
  ((∃ f, a = .fault f) ↔ P) ∧ ((∃ t, a = .next t) ↔ ¬ P)

theorem faultsExactlyWhen_next (t : State) {P : Prop} (hP : ¬ P) : FaultsExactlyWhen (.next t) P := by
  simp [FaultsExactlyWhen, hP]

theorem faultsExactlyWhen_fault (f : Fault) {P : Prop} (hP : P) : FaultsExactlyWhen (.fault f) P := by
  simp [FaultsExactlyWhen, hP]

/-- A body that checks `P` before it does anything else (60_exceptions.md R227, R228). -/
theorem faultsExactlyWhen_ite (P : Prop) [Decidable P] (f : Fault) (t : State) :
    FaultsExactlyWhen (if P then .fault f else .next t) P := by
  by_cases hP : P
  · rw [if_pos hP]
    exact faultsExactlyWhen_fault f hP
  · rw [if_neg hP]
    exact faultsExactlyWhen_next t hP

theorem FaultsExactlyWhen.congr {a : Answer} {P Q : Prop} (h : FaultsExactlyWhen a P) (hPQ : P ↔ Q) :
    FaultsExactlyWhen a Q := by
  rwa [← propext hPQ]

/-- Normal completion changes no body's kind of answer (60_exceptions.md R221). -/
theorem FaultsExactlyWhen.finish {a : Answer} {P : Prop} (h : FaultsExactlyWhen a P) :
    FaultsExactlyWhen (finish a) P := by
  cases a with
  | next u => simpa [FaultsExactlyWhen, Machine.finish] using h
  | fault f => exact h
  | refused r => exact h

/-- Writing consecutive fields faults where they do not fit (42_field_encoder.md R160). -/
theorem encodeFields_faults {fields : List (Nat × Nat)} {p bits : Nat} {s : State} (hwidth : totalWidth fields = bits) :
    FaultsExactlyWhen (encodeFields fields p s) (p + bits > 8 * flen s) := by
  subst hwidth
  exact faultsExactlyWhen_ite (p + totalWidth fields > frameBits s) _ _

theorem bodySetBit_faults (p : Nat) (s : State) : FaultsExactlyWhen (bodySetBit p s) (p ≥ 8 * flen s) :=
  faultsExactlyWhen_ite (p ≥ frameBits s) _ _

theorem bodySetValue_faults (w p : Nat) (s : State) :
    FaultsExactlyWhen (bodySetValue w p s) (w > 0 ∧ p + w > 8 * flen s) :=
  faultsExactlyWhen_ite (w > 0 ∧ p + w > frameBits s) _ _

theorem bodySetCrc16_faults (p : Nat) (s : State) : FaultsExactlyWhen (bodySetCrc16 p s) (p + 16 > 8 * flen s) :=
  faultsExactlyWhen_ite (p + 16 > frameBits s) _ _

theorem bodySetCrc16Bch32_faults (b : Nat) (s : State) :
    FaultsExactlyWhen (bodySetCrc16Bch32 b s) (b + 32 > 8 * flen s) :=
  faultsExactlyWhen_ite (b + 32 > frameBits s) _ _

/-- CALC's two checks together are the rule's condition (41_checksum_engine.md R143, 60_exceptions.md R228). -/
theorem bodyCalc_faults (W ptr : Nat) (s : State) : FaultsExactlyWhen (bodyCalc W ptr s) (calcViolates ptr s) := by
  unfold bodyCalc calcViolates ceil8 sint32
  by_cases hneg : s.opa.toInt < 0
  · rw [if_pos hneg]
    exact faultsExactlyWhen_fault _ (.inl hneg)
  · rw [if_neg hneg]
    exact (faultsExactlyWhen_ite _ _ _).congr (by omega)

/-- The bits a `.T` form writes from the start of a field (42_field_encoder.md R162 to R176, 43_frame_assembler.md R203,
R206). -/
def tableExtents (variant : Variant) (bch : Bool) : List (FieldType × Nat) :=
  [(.acqPeriod, 3), (.day, 16), (.longitude, 53),
    (.userData, 8 * (specCapacity variant bch).1 + 4 * (specCapacity variant bch).2.toNat), (.crc16, 16), (.bch32, 32)]

/-- In every table these bits lie inside the frame (60_exceptions.md R228: the `.T` forms are never UNDEFINED). -/
theorem tableExtents_fit (variant : Variant) (bch : Bool) : ∀ e ∈ tableExtents variant bch,
    ∀ d ∈ descriptor (layout variant bch) e.1, d.offset + e.2 ≤ 8 * frameLength variant bch := by
  cases variant <;> cases bch <;> decide

/-- A body that writes these bits from its field's start never faults. -/
theorem FaultsExactlyWhen.never {a : Answer} {field : FieldType} {s : State} {p bits : Nat}
    (h : FaultsExactlyWhen a (p + bits > 8 * flen s)) (hstart : tableStart field s = some p)
    (hextent : (field, bits) ∈ tableExtents s.actVariant s.actBch) : FaultsExactlyWhen a False := by
  obtain ⟨d, hd, rfl⟩ := Option.map_eq_some_iff.mp hstart
  exact h.congr (iff_false_intro (Nat.not_lt.mpr (tableExtents_fit _ _ _ hextent d hd)))

/-- A body faults on the inequality of its row, from whichever start position its form has (60_exceptions.md R228). -/
theorem commandBody_faults {i : Instr} {s : State} {p : Nat} (hstart : commandStart i s = some p) :
    FaultsExactlyWhen (commandBody i p s) (violatesLayout i s) := by
  have acq : FaultsExactlyWhen (bodySetAcq p s) (p + 3 > 8 * flen s) := encodeFields_faults rfl
  have date : FaultsExactlyWhen (bodySetDate p s) (p + 16 > 8 * flen s) := encodeFields_faults rfl
  have loc : FaultsExactlyWhen (bodySetLoc p s) (p + 53 > 8 * flen s) := encodeFields_faults rfl
  have user : FaultsExactlyWhen (bodySetUser p s) (p + userBits s > 8 * flen s) :=
    encodeFields_faults (totalWidth_userFields s)
  cases i with
  | clean => exact faultsExactlyWhen_next _ id
  | setBit _ => cases hstart; exact bodySetBit_faults _ s
  | setValue _ w => cases hstart; exact bodySetValue_faults w _ s
  | setValue32 _ => cases hstart; exact (bodySetValue_faults 32 _ s).congr (and_iff_right (by decide))
  | setAcq _ => cases hstart; exact acq
  | setDate _ => cases hstart; exact date
  | setLoc _ => cases hstart; exact loc
  | setUser _ => cases hstart; exact user
  | calc16 _ | calc32 _ => cases hstart; exact bodyCalc_faults _ _ s
  | setCrc16 _ => cases hstart; exact bodySetCrc16_faults _ s
  | setCrc16Bch32 _ => cases hstart; exact bodySetCrc16Bch32_faults _ s
  | setAcqT => exact acq.never hstart (by simp [tableExtents])
  | setDateT => exact date.never hstart (by simp [tableExtents])
  | setLocT => exact loc.never hstart (by simp [tableExtents])
  | setUserT => exact user.never hstart (by simp [tableExtents, userBits])
  | setCrc16T => exact (bodySetCrc16_faults p s).never hstart (by simp [tableExtents])
  | setCrc16Bch32T => exact (bodySetCrc16Bch32_faults p s).never hstart (by simp [tableExtents])

/-- Only a `.T` form can lack its field, and no `.T` form violates the layout (60_exceptions.md R223, R228). -/
theorem not_violatesLayout_of_lacksField {i : Instr} {s : State} (h : lacksField i s = true) : ¬ violatesLayout i s := by
  cases i with
  | setAcqT | setDateT | setLocT | setCrc16Bch32T => exact id
  | _ => cases h

/-- Settles O34: past the two outcomes of the prologue, a command faults where its body does. -/
theorem undefinedExactlyOnLayoutViolations : Obligations.UndefinedExactlyOnLayoutViolations := by
  intro i s
  change FaultsExactlyWhen (exec i s) _
  cases hlacks : lacksField i s with
  | true =>
    rw [exec_of_lacksField hlacks]
    exact faultsExactlyWhen_next _ fun ⟨_, hviolates⟩ => not_violatesLayout_of_lacksField hlacks hviolates
  | false =>
    cases hattach : s.attach with
    | false =>
      rw [exec_of_detached hattach hlacks]
      exact faultsExactlyWhen_next _ (by simp)
    | true =>
      obtain ⟨p, hstart⟩ := lacksField_eq_false_iff.mp hlacks
      rw [exec_eq_runCommand, hstart, runCommand_attached _ _ _ hattach]
      exact (commandBody_faults hstart).finish.congr (by simp)

/-! ## Which words are command errors -/

/-- A decoded word is a command error: it holds no command, or one whose field the active table lacks
(`completeCommand_cmdErr_iff` ties this to the outcome). -/
def CompletesInError (d : Decoded) (s : State) : Prop :=
  match d with
  | .rejected _ => True
  | .command i => lacksField i s = true

@[simp] theorem completesInError_rejected (why : Reject) (s : State) : CompletesInError (.rejected why) s ↔ True := .rfl

@[simp] theorem completesInError_command (i : Instr) (s : State) :
    CompletesInError (.command i) s ↔ lacksField i s = true := .rfl

@[simp] theorem completesInError_ite (P : Prop) [Decidable P] (d d' : Decoded) (s : State) :
    CompletesInError (if P then d else d') s ↔ if P then CompletesInError d s else CompletesInError d' s := by
  split_ifs <;> rfl

/-- A command sets CMDERR exactly where its field is absent: both other outcomes clear it (60_exceptions.md R221, R222,
R224). -/
theorem cmdErr_of_exec {i : Instr} {s t : State} (h : exec i s = .next t) : t.cmdErr = lacksField i s := by
  rw [exec_eq_runCommand] at h
  obtain ⟨hstart, rfl⟩ | ⟨p, hstart, -, rfl⟩ | ⟨p, _, hstart, -, -, rfl⟩ := runCommand_cases h
  · exact ((commandStart_eq_none i s).mp hstart).symm
  · exact (lacksField_eq_false_iff.mpr ⟨p, hstart⟩).symm
  · exact (lacksField_eq_false_iff.mpr ⟨p, hstart⟩).symm

/-- A completed word has CMDERR set exactly where it decodes to nothing or to a form without its field. -/
theorem completeCommand_cmdErr_iff (c : Word) (s : State) :
    (∃ t, completeCommand c s = .next t ∧ t.cmdErr = true) ↔ CompletesInError (decode c) s := by
  obtain ⟨⟨why, hd⟩, hc⟩ | ⟨i, hd, hc⟩ := completeCommand_cases c s <;> rw [hc, hd]
  · exact iff_of_true ⟨_, rfl, rfl⟩ trivial
  · exact ⟨fun ⟨_, ht, herr⟩ => (cmdErr_of_exec ht).symm.trans herr, fun hlacks => ⟨_, exec_of_lacksField hlacks, rfl⟩⟩

/-- The OP numbers of 60_exceptions.md R223, cause 1, are the ones the opcode map leaves out. -/
theorem opOf_eq_none_iff {n : Nat} (hn : n < 64) : opOf n = none ↔
    n = 0x00 ∨ (0x04 ≤ n ∧ n ≤ 0x07) ∨ (0x0C ≤ n ∧ n ≤ 0x0F) ∨ (0x13 ≤ n ∧ n ≤ 0x3F) := by
  unfold opOf
  split_ifs <;> simp <;> omega

/-- A field of a word is not 0 exactly where one of its bits is set. -/
theorem slice_ne_zero_iff (c : Word) (hi lo : Nat) :
    slice c hi lo ≠ 0 ↔ ∃ k, lo ≤ k ∧ k ≤ hi ∧ c.getLsbD k = true := by
  have hbit : ∀ i, (slice c hi lo).testBit i = (decide (i < hi + 1 - lo) && c.getLsbD (i + lo)) := fun i => by
    rw [slice, Nat.testBit_mod_two_pow, Nat.testBit_div_two_pow, BitVec.getLsbD]
  constructor
  · intro hne
    obtain ⟨i, hset⟩ := Nat.exists_testBit_of_ne_zero hne
    rw [hbit, Bool.and_eq_true, decide_eq_true_eq] at hset
    obtain ⟨hlt, hbitc⟩ := hset
    exact ⟨i + lo, by omega, by omega, hbitc⟩
  · rintro ⟨k, hlo, hhi, hk⟩ hzero
    have hbitk := hbit (k - lo)
    rw [hzero, Nat.zero_testBit, Nat.sub_add_cancel hlo, hk, decide_eq_true (by omega)] at hbitk
    cases hbitk

theorem slice_bit_ne_zero_iff (c : Word) (k : Nat) : slice c k k ≠ 0 ↔ c.getLsbD k = true := by
  rw [slice_ne_zero_iff]
  refine ⟨fun ⟨j, hlo, hhi, hj⟩ => ?_, fun hk => ⟨k, le_rfl, le_rfl, hk⟩⟩
  rwa [Nat.le_antisymm hhi hlo] at hj

theorem toNat_extractLsb'_eq_slice (c : Word) (lo n : Nat) : (c.extractLsb' lo (n + 1)).toNat = slice c (lo + n) lo := by
  rw [BitVec.extractLsb'_toNat, Nat.shiftRight_eq_div_pow, slice, show lo + n + 1 - lo = n + 1 by omega]

/-- Cause 2 is the decoder's check of the reserved bits (60_exceptions.md R223). -/
theorem reservedBitSet_iff (c : Word) : reservedBitSet c ↔ reservedSet c = true := by
  rw [reservedBitSet, reservedSet, Bool.or_eq_true, bne_iff_ne, bne_iff_ne, slice_bit_ne_zero_iff, slice_ne_zero_iff]

/-- The causes 1 and 3 to 9 of 60_exceptions.md R223, in this order, on the fields of a word as the decoder reads them. -/
def FieldErrorCause (op tbl pos width : Nat) (s : State) : Prop :=
  (op = 0x00 ∨ (0x04 ≤ op ∧ op ≤ 0x07) ∨ (0x0C ≤ op ∧ op ≤ 0x0F) ∨ (0x13 ≤ op ∧ op ≤ 0x3F)) ∨
    (tbl ≠ 0 ∧ (op = 0x01 ∨ op = 0x02 ∨ op = 0x03 ∨ op = 0x10)) ∨
    (tbl ≠ 0 ∧ pos ≠ 0) ∨
    (width ≠ 0 ∧ op ≠ 0x03 ∧ op ≠ 0x10) ∨
    (33 ≤ width ∧ op = 0x03) ∨
    (width ≠ 16 ∧ width ≠ 32 ∧ op = 0x10) ∨
    (pos ≠ 0 ∧ op = 0x01) ∨
    (tbl ≠ 0 ∧ (((op = 0x08 ∨ op = 0x09 ∨ op = 0x0A) ∧ s.actVariant = .u) ∨ (op = 0x12 ∧ s.actBch = false)))

/-- The rule's bit ranges are the decoder's fields, so only cause 2 looks at other bits (30_encoding.md R91 to R95). -/
theorem commandErrorCause_iff (c : Word) (s : State) : CommandErrorCause c s ↔
    reservedSet c = true ∨ FieldErrorCause (opField c) (tblField c) (posField c) (widthField c) s := by
  have htbl : c.getLsbD 6 = true ↔ tblField c ≠ 0 := (slice_bit_ne_zero_iff c 6).symm
  have hop : (c.extractLsb' 0 6).toNat = opField c := toNat_extractLsb'_eq_slice c 0 5
  have hpos : (c.extractLsb' 8 8).toNat = posField c := toNat_extractLsb'_eq_slice c 8 7
  have hwidth : (c.extractLsb' 16 6).toNat = widthField c := toNat_extractLsb'_eq_slice c 16 5
  simp only [CommandErrorCause, FieldErrorCause, htbl, hop, hpos, hwidth, reservedBitSet_iff]
  exact or_left_comm

theorem completesInError_decodeSingle (tbl : Nat) (rest : Decoded) (s : State) :
    CompletesInError (decodeSingle tbl rest) s ↔ tbl ≠ 0 ∨ CompletesInError rest s := by
  by_cases htbl : tbl = 0 <;> simp [decodeSingle, htbl]

/-- A `.T` form may lack its field, its positional form never does (60_exceptions.md R223, causes 4, 5 and 9). -/
theorem completesInError_decodeDual {tbl pos width : Nat} {positional table : Instr} {s : State}
    (hpositional : lacksField positional s = false) :
    CompletesInError (decodeDual tbl pos width positional table) s ↔
      width ≠ 0 ∨ tbl ≠ 0 ∧ (pos ≠ 0 ∨ lacksField table s = true) := by
  unfold decodeDual
  split_ifs with hwidth htbl hpos
  · simp [hwidth]
  · simp [not_not.mp hwidth, htbl, hpositional]
  · simp [htbl, hpos]
  · simp [not_not.mp hwidth, htbl, not_not.mp hpos]

/-- The field rules of an operation reject a word's fields, or lead to a form without its field, exactly for a cause. -/
theorem completesInError_decodeOp (op : Op) (tbl pos width : Nat) (s : State) :
    CompletesInError (decodeOp op tbl pos width) s ↔ FieldErrorCause (opCode op) tbl pos width s := by
  unfold FieldErrorCause
  cases op with
  | setAcq | setDate | setLoc | setUser | setCrc16 | setCrc16Bch32 =>
    rw [decodeOp, completesInError_decodeDual rfl]
    simp only [opCode, lacksField]
    grind
  | _ => -- the operations with no `.T` form
    simp only [decodeOp, completesInError_decodeSingle, completesInError_ite, completesInError_rejected,
      completesInError_command, lacksField, opCode]
    grind

/-- What the decoder rejects and what lacks its field are together the causes of 60_exceptions.md R223. -/
theorem completesInError_iff (c : Word) (s : State) : CompletesInError (decode c) s ↔ CommandErrorCause c s := by
  rw [commandErrorCause_iff]
  cases hreserved : reservedSet c with
  | true => simp [decode, hreserved]
  | false =>
    cases hop : opOf (opField c) with
    | none =>
      have hunassigned := (opOf_eq_none_iff (slice_lt c 5 0)).mp hop
      simp only [decode, hreserved, hop]
      exact iff_of_true trivial (.inr (.inl hunassigned))
    | some op =>
      rw [decode_of_fields hreserved hop rfl, completesInError_decodeOp, ← eq_opCode_of_opOf hop]
      simp

/-- Settles O4: CMDERR is set by a rejected word and by a form without its field, which are the nine causes. -/
theorem commandErrorExactlyForItsCauses : Obligations.CommandErrorExactlyForItsCauses :=
  ⟨fun c s => (completeCommand_cmdErr_iff c s).trans (completesInError_iff c s), fun _ => .inl (.inl rfl)⟩

end Sys2Proof.Machine

/-! # The family of 70_reset_and_hazards.md: reset, the pending command and the waiting host

While the latency of a pending command runs, the step is the host's next event (`step_of_hostTurn`): a poll only counts the
latency down, a STATUS read also returns its word, any other access of the host is UNDEFINED, and reset takes
effect as on an idle block. -/

namespace Sys2Proof.Machine

/-! ## A host that waits -/

/-- Settles O9: by induction on the latency; each poll takes one off it and changes nothing else, and at 0 the engine's
step is due. -/
theorem latencyDoesNotChangeTheOutcome : Obligations.LatencyDoesNotChangeTheOutcome := by
  intro s c rest n hpend hinput
  induction n with
  | zero =>
    rw [core_run_one]
    exact step_of_engineReady hpend ((engineReady_iff _).mpr (.inl rfl))
  | succ n ih =>
    have hpoll : step { s with latencyLeft := n + 1 } = .next { s with latencyLeft := n } := step_poll hpend rfl hinput
    exact (core_run_next (n + 1) hpoll).trans ih

/-! ## A host access while a command is pending -/

/-- STATUS has the one offset 0x18 (20_memory.md R60). -/
theorem eq_of_hostReg_eq_status {offset : BitVec 8} (h : hostReg offset.toNat = .status) : offset = 0x18 := by
  apply BitVec.eq_of_toNat_eq
  unfold hostReg at h
  iterate 6 (split at h; · cases h)
  split at h
  · assumption
  · split_ifs at h

section
variable {s : State} {offset : BitVec 8}

/-- No write is defined while a command is pending (70_reset_and_hazards.md R256). -/
theorem hostWrite_busy (v : Word) (hbusy : busy s = true) (haligned : offset.toNat % 4 = 0) :
    hostWrite offset 32 v s = .fault .accessWhileBusy := by
  rw [hostWrite, if_pos (accessDefined_aligned haligned), if_pos hbusy]

/-- No read but STATUS's is defined while a command is pending (70_reset_and_hazards.md R256). -/
theorem hostRead_busy (hbusy : busy s = true) (haligned : offset.toNat % 4 = 0) (hoffset : offset ≠ 0x18) :
    hostRead offset 32 s = .fault .accessWhileBusy := by
  rw [hostRead, if_pos (accessDefined_aligned haligned), if_pos ⟨hbusy, mt eq_of_hostReg_eq_status hoffset⟩]

/-- A STATUS read while a command is pending is defined and counts against its latency (70_reset_and_hazards.md R256,
R263). -/
theorem hostRead_status_busy (hbusy : busy s = true) :
    hostRead 0x18 32 s = .next { s with reads := statusWord s :: s.reads, latencyLeft := s.latencyLeft - 1 } := by
  have hstatus : ¬ (busy s = true ∧ hostReg (0x18 : BitVec 8).toNat ≠ .status) := fun h => h.2 rfl
  have hbusyRead : busy { s with reads := statusWord s :: s.reads } = true := hbusy
  rw [hostRead, if_pos (accessDefined_aligned rfl), if_neg hstatus]
  exact congrArg _ (tick_of_busy hbusyRead)

end

/-- Settles O44: the latency still runs, so it is the host's turn, and the block is busy in it. -/
theorem onlyStatusMayBeReadWhileBusy : Obligations.OnlyStatusMayBeReadWhileBusy := by
  intro s offset rest hpend hlatency haligned
  have hbusy : busy { s with input := rest } = true := busy_of_pend_ne_none hpend
  have hturn : ∀ e, s.input = e :: rest → step s = hostStep e rest s := fun _ => step_of_hostTurn (.inr hlatency)
  refine ⟨fun v hinput => ?write, fun hoffset hinput => ?read, fun hinput =>
    ⟨statusWord { s with input := rest }, ?status, ?word⟩⟩
  case write => exact (hturn _ hinput).trans (hostWrite_busy v hbusy haligned)
  case read => exact (hturn _ hinput).trans (hostRead_busy hbusy haligned hoffset)
  case status => exact (hturn _ hinput).trans (hostRead_status_busy hbusy)
  case word =>
    rw [statusWord_toNat_eq_specStatus, hbusy]
    rfl

/-! ## Reset -/

/-- Settles O42: the host's turn takes the reset event, whatever is pending. -/
theorem resetEventResets : Obligations.ResetEventResets :=
  fun _ _ hinput hturn => step_of_hostTurn hturn hinput

/-- A buffer with no byte listed reads 0 (10_state.md R35, R36, 20_memory.md R63). -/
theorem memRead_nil (a n : Nat) : memRead [] a n = 0 := by
  induction n generalizing a with
  | zero => rfl
  | succ n ih =>
    have hbyte : (readByte [] a).toNat = 0 := rfl
    rw [memRead, hbyte, Nat.zero_mul, ih]

theorem windowWord_nil (k : Nat) : windowWord [] k = 0x00000000 :=
  congrArg (BitVec.ofNat 32) (memRead_nil (4 * k) 4)

/-- The reset values of the registers (10_state.md R39): FLENR is 27 and every other one 0. -/
theorem readReg_reset (r : HostReg) : readReg r State.reset = if r = .flenr then 0x0000001B else 0x00000000 := by
  cases r with
  | frame k | userBuf k => exact windowWord_nil k
  | _ => decide

/-- Settles O43: the registers are `readReg_reset`, the buffers list no byte, and no frame is attached. -/
theorem stateAfterReset : Obligations.StateAfterReset :=
  ⟨readReg_reset, fun _ => ⟨rfl, rfl⟩, fun _ hfield => ⟨_, exec_of_detached rfl hfield, rfl, rfl, rfl⟩⟩

/-- Settles O56: both buffers list no byte, no outcome bit is set and nothing is pending. -/
theorem invariantHoldsAtReset : Obligations.InvariantHoldsAtReset :=
  ⟨wf_nil, wf_nil, fun ⟨hcmdErr, _⟩ => Bool.false_ne_true hcmdErr, fun _ => rfl, fun _ => rfl⟩

end Sys2Proof.Machine
